-- ==== Sys2Proof/Word.lean ====
section
/-! DEFINITION. The word types of the core: bytes, halfwords, command words and binary32 patterns
(spec/00_scope.md R11 to R13). -/

namespace Sys2Proof

/-- One byte of the window (20_memory.md R70). -/
abbrev Byte := BitVec 8

/-- A 16-bit pattern: an i16 element or a status code (00_scope.md R12). -/
abbrev Half := BitVec 16

/-- A 32-bit word: a command word or a register (30_encoding.md R100, 10_state.md section 7). -/
abbrev Word := BitVec 32

/-- An IEEE 754 binary32 value, held as its 32-bit pattern (00_scope.md R13). -/
abbrev F32 := BitVec 32

/-- `+0.0`, the pattern 0x00000000 (00_scope.md R13). -/
abbrev F32.zero : F32 := 0#32

end Sys2Proof
end

