-- ==== Sys2Proof/Config.lean ====
section
/-! DEFINITION. What is fixed for one machine: the structural constants of 00_scope.md R8, and the open
parameters and free values of the spec, each a constant WITHOUT a body, so that nothing can be proved of
its value (00_scope.md R9, R16). -/

namespace Sys2Proof.Config

/-- `TAPS` (00_scope.md R8). -/
abbrev taps : Nat := 96
/-- `DECIM` (00_scope.md R3, R8). -/
abbrev decim : Nat := 6
/-- `FRAME` (00_scope.md R8). -/
abbrev frame : Nat := 480
/-- `CHUNK` (00_scope.md R8). -/
abbrev chunk : Nat := 160
/-- `OUTMAX` (00_scope.md R8). -/
abbrev outMax : Nat := 80

/-- `H`, the coefficient table: OPEN (00_scope.md R9, R10). DESIGN CHOICE (log 11): the constraints of R10
are not assumed. Safe. -/
opaque coefficients : Vector F32 96

/-- Free value: which NaN a NaN-producing operation gives (40_decimator.md R134). The first argument counts
emitted outputs (`Draws.nan`), the second is the operation's place inside that output's inner product. The
16777214 values stand for the NaN patterns, one each (`nanPattern`). Log 3. Safe. -/
opaque nanDraw : Nat → Nat → Fin 16777214

/-- Free value `DENOISE`: the answer of one denoiser call (41_frame_packer.md R176). The number counts the
calls (`Draws.denoise`), so two calls with one frame may differ. Log 4. Safe. -/
opaque denoise : Nat → Vector F32 480 → Vector F32 480

/-- Free value `AllocDraw(FE)`: true when the allocation of a CREATE fails (42_session.md R211). The number
counts the draws (`Draws.alloc`). Consulted only where `ALLOC_CAN_FAIL` holds. Log 5. Safe. -/
opaque allocFails : Nat → Bool → Bool

/-- Free value: what a byte of the RAM buffers holds after a hardware reset, until it is first written
(10_state.md R59). The first number counts hardware resets (`Draws.powerOn`), the second is the byte's offset in
the window. Log 6. Safe. -/
opaque powerOnByte : Nat → Nat → Byte

/-- Free value: the bits a host read returns while `busy` = 1 (20_memory.md R81). Log 8. Safe. -/
opaque busyReadBits : Nat → Word

/-- `BASE`, the window's bus address: OPEN (20_memory.md R70). Offsets are relative to it and no rule uses its
value. Log 13. Safe. -/
opaque base : Nat

/-- `LATENCY` of the command whose OP field is the argument, in cycles: OPEN, and no rule uses its value
(70_reset_and_hazards.md R280). Log 13. Safe. -/
opaque latency : Nat → Nat

end Sys2Proof.Config
end

