-- ==== Sys2Proof/Machine/State.lean ====
section
/-! DEFINITION. The state of one instance of the core, as plain data, and its value after hardware reset
(10_state.md; 70_reset_and_hazards.md R270). -/

namespace Sys2Proof.Machine

/-- What a host-protocol fault says (60_exceptions.md R249). -/
inductive HostProtocolInfo where
  /-- Items 1 and 2 of R249: a write to CMD, OUTCAP, IN_BUF or DEC_IN while `busy` = 1 (20_memory.md R81). Raised
  by `hostWrite`. Safe. -/
  | accessWhileBusy
  /-- Item 3 of R249: an access of an illegal width, alignment or offset (20_memory.md R77). Raised by
  `hostRead` and `hostWrite`. Safe. -/
  | busError
  /-- Item 4 of R249: a PFRAME or DPUSH consumed an entry never written since hardware reset
  (70_reset_and_hazards.md R278). Raised by `execPframe` and `execDpush`. Safe. -/
  | unwrittenInput
  deriving DecidableEq, Repr

/-- How the machine stops. The spec's list of faults is complete (60_exceptions.md R249). -/
inductive Fault where
  /-- `fault HostProtocol(info)` (00_scope.md R16): the host did what the spec forbids. The run ends (log 10).
  Safe: no state is given after it. -/
  | hostProtocol (info : HostProtocolInfo)
  deriving DecidableEq, Repr

/-- Why an instruction has no meaning here. -/
inductive Refusal where
  /-- Raised by an arm of `exec` that has no meaning yet. Every arm has one. Safe. -/
  | notModelled (mnemonic : String)
  deriving DecidableEq, Repr

/-- The Decimator's state (10_state.md R35, R36, R37). -/
structure DecimatorState where
  hist : Vector F32 96
  widx : Fin 96
  phase : Fin 6
  deriving DecidableEq, Repr

/-- The Frame Packer's state between commands (10_state.md R39, R40). -/
structure FramePackerState where
  acc : Vector F32 160
  filled : Fin 160
  deriving DecidableEq, Repr

/-- The result code and the four result flags (10_state.md R33). -/
structure ResultState where
  result : Half
  ready : Bool
  cskip : Bool
  dwr : Bool
  dskip : Bool
  deriving DecidableEq, Repr

/-- The RAM buffers' bytes by offset in the window, in canonical form (`Memory.wf`). An offset that is not
listed has not been written since hardware reset (log 7). -/
abbrev Memory := List Host.Cell

/-- The model's own counters, one for each kind of free value (log 20). -/
structure Draws where
  /-- Outputs emitted: selects the NaN draws of an output's inner product (log 3). -/
  nan : Nat
  /-- Denoiser calls made (log 4). -/
  denoise : Nat
  /-- Allocation draws made (log 5). -/
  alloc : Nat
  /-- Hardware resets applied: selects the power-on bytes (log 6). -/
  powerOn : Nat
  /-- Reads made while `busy` = 1 (log 8). -/
  busyRead : Nat
  deriving DecidableEq, Repr

/-- What the world outside does to the core next: a host access at an offset of the window
(00_scope.md R14) or the platform's hardware reset (70_reset_and_hazards.md R270). -/
inductive HostAction where
  /-- `MemRead(off, size)`. -/
  | read (off size : Nat)
  /-- `MemWrite(off, size, v)`. A write of 2 bytes carries `v[15:0]`. -/
  | write (off size : Nat) (v : Word)
  /-- Power-on, or the platform's reset of the core. -/
  | hardwareReset
  deriving DecidableEq, Repr

/-- What a completed host read returned: its width in bytes, and its value zero-extended. -/
structure ReadData where
  size : Nat
  value : Word
  deriving DecidableEq, Repr

/-- One instance of the core (10_state.md), and the model's own fields after `mem`. -/
structure State where
  valid : Bool
  fe : Bool
  res : ResultState
  busy : Bool
  dec : DecimatorState
  pack : FramePackerState
  coef : Vector F32 96
  ccap : BitVec 8
  dcap : BitVec 9
  dcount : Nat
  cmdreg : Word
  /-- `inbuf`, `chunkbuf`, `denbuf`, `decin` and `decout` (10_state.md R44 to R48). -/
  mem : Memory
  /-- The parameter `ALLOC_CAN_FAIL`, a strap no step changes (log 5). -/
  allocCanFail : Bool
  draws : Draws
  /-- The host's coming actions, oldest first (log 1). -/
  host : List HostAction
  /-- What the last completed host read returned (log 12). -/
  rdata : Option ReadData
  deriving DecidableEq, Repr

/-- What an instruction or a step ends in. -/
abbrev Outcome := Host.Outcome State Fault Refusal

/-- Decimator state at power-on and after DecClear (10_state.md R35 to R37). -/
def DecimatorState.cleared : DecimatorState where
  hist := Vector.replicate 96 F32.zero
  widx := 0
  phase := 0

/-- Frame Packer state at power-on and after PackClear (10_state.md R39, R40). -/
def FramePackerState.cleared : FramePackerState where
  acc := Vector.replicate 160 F32.zero
  filled := 0

/-- Hardware reset: every piece of state at its power-on value (10_state.md R59). The fields after `mem` are
the model's own: log 1, 5, 12 and 20. -/
def State.reset : State where
  valid := false
  fe := false
  res := { result := 0x0000#16, ready := false, cskip := false, dwr := false, dskip := false }
  busy := false
  dec := DecimatorState.cleared
  pack := FramePackerState.cleared
  coef := Config.coefficients
  ccap := 160#8
  dcap := 480#9
  dcount := 0
  cmdreg := 0x00000000#32
  mem := []
  allocCanFail := false
  draws := { nan := 0, denoise := 0, alloc := 0, powerOn := 0, busyRead := 0 }
  host := []
  rdata := none

end Sys2Proof.Machine
end

