-- ==== Sys2Proof/Machine/AddressMap.lean ====
section
/-! DEFINITION. The address map of the window (20_memory.md R70, R71) and which accesses are legal (R77). -/

namespace Sys2Proof.Machine

/-- The named ranges of the map (20_memory.md R71). -/
inductive Region where
  | cmd | status | outcap | decCount | phase | widx | filled
  | inBuf | chunkBuf | denBuf | decIn | decOut
  | coef | hist | acc
  | reserved
  deriving DecidableEq, Repr

/-- One row of the map: its first and last offset, inclusive. -/
structure MapRow where
  first : Nat
  last : Nat
  region : Region
  deriving DecidableEq, Repr

/-- IN_BUF's base offset (20_memory.md R71). -/
def inBufBase : Nat := 0x0400
/-- CHUNK_BUF's base offset. -/
def chunkBufBase : Nat := 0x0800
/-- DEN_BUF's base offset. -/
def denBufBase : Nat := 0x0C00
/-- DEC_IN's base offset. -/
def decInBase : Nat := 0x1000
/-- DEC_OUT's base offset. -/
def decOutBase : Nat := 0x1800
/-- The window's size in bytes: 16 KiB (20_memory.md R70). -/
def windowSize : Nat := 0x4000

/-- The registers' rows and the first buffers of 20_memory.md R71. -/
def addressMapLow : List MapRow :=
  [ ⟨0x0000, 0x0003, .cmd⟩,
    ⟨0x0004, 0x0007, .status⟩,
    ⟨0x0008, 0x000B, .outcap⟩,
    ⟨0x000C, 0x000F, .decCount⟩,
    ⟨0x0010, 0x0013, .phase⟩,
    ⟨0x0014, 0x0017, .widx⟩,
    ⟨0x0018, 0x001B, .filled⟩,
    ⟨0x001C, 0x03FF, .reserved⟩,
    ⟨0x0400, 0x07BF, .inBuf⟩,
    ⟨0x07C0, 0x07FF, .reserved⟩,
    ⟨0x0800, 0x093F, .chunkBuf⟩,
    ⟨0x0940, 0x0BFF, .reserved⟩ ]

/-- The other rows of 20_memory.md R71. -/
def addressMapHigh : List MapRow :=
  [ ⟨0x0C00, 0x0FBF, .denBuf⟩,
    ⟨0x0FC0, 0x0FFF, .reserved⟩,
    ⟨0x1000, 0x177F, .decIn⟩,
    ⟨0x1780, 0x17FF, .reserved⟩,
    ⟨0x1800, 0x193F, .decOut⟩,
    ⟨0x1940, 0x1FFF, .reserved⟩,
    ⟨0x2000, 0x217F, .coef⟩,
    ⟨0x2180, 0x23FF, .reserved⟩,
    ⟨0x2400, 0x257F, .hist⟩,
    ⟨0x2580, 0x27FF, .reserved⟩,
    ⟨0x2800, 0x2A7F, .acc⟩,
    ⟨0x2A80, 0x3FFF, .reserved⟩ ]

/-- The whole map (20_memory.md R71). -/
def addressMap : List MapRow := addressMapLow ++ addressMapHigh

/-- Whether an offset lies in a row. -/
def MapRow.covers (r : MapRow) (off : Nat) : Bool := r.first ≤ off && off ≤ r.last

/-- The row of an offset; none outside the window. -/
def rowAt (off : Nat) : Option MapRow := addressMap.find? (·.covers off)

/-- The region of an offset; none outside the window. -/
def regionAt (off : Nat) : Option Region := (rowAt off).map (·.region)

/-- Regions whose bytes live in `State.mem` (10_state.md R44 to R48). -/
def Region.isRam : Region → Bool
  | .inBuf | .chunkBuf | .denBuf | .decIn | .decOut => true
  | _ => false

/-- Regions a 16-bit access may reach: the i16 regions and the reserved ranges (20_memory.md R77). -/
def Region.allowsHalf : Region → Bool
  | .inBuf | .chunkBuf | .denBuf | .reserved => true
  | _ => false

/-- Regions whose writes change state (20_memory.md R71, "RW"; R78). -/
def Region.hostWritable : Region → Bool
  | .cmd | .outcap | .inBuf | .decIn => true
  | _ => false

/-- The legal accesses (20_memory.md R77): everything else is a bus error. -/
def legalAccess (off size : Nat) : Bool :=
  if size = 4 then off % 4 == 0 && (regionAt off).isSome
  else if size = 2 then off % 2 == 0 && ((regionAt off).any Region.allowsHalf)
  else false

end Sys2Proof.Machine
end

