-- ==== Sys2Proof/Machine/Float.lean ====
section
/-! DEFINITION. binary32 arithmetic (00_scope.md R13, 40_decimator.md R134) and the sample conversions
(41_frame_packer.md R171, R172), computed exactly on integers and rounded once. Every finite binary32 value is
an integer multiple of 2^-149, so a value is held here as that integer. PRESUMED (log 18): the spec takes
the operations' details from IEEE 754. -/

namespace Sys2Proof.Machine

/-- The sign bit. -/
def F32.sign (x : F32) : Bool := x.getLsbD 31

/-- The biased exponent field, 0..255. -/
def F32.expField (x : F32) : Nat := (x.extractLsb' 23 8).toNat

/-- The fraction field, 0..2^23 - 1. -/
def F32.fraction (x : F32) : Nat := (x.extractLsb' 0 23).toNat

/-- NaN: the exponent bits all 1 and the fraction non-zero (40_decimator.md R134). -/
def F32.isNaN (x : F32) : Bool := F32.expField x == 255 && F32.fraction x != 0

/-- An infinity of either sign. -/
def F32.isInf (x : F32) : Bool := F32.expField x == 255 && F32.fraction x == 0

/-- Neither a NaN nor an infinity. -/
def F32.isFinite (x : F32) : Bool := F32.expField x != 255

/-- The magnitude of a finite value, in units of 2^-149. -/
def F32.magnitude (x : F32) : Nat :=
  if F32.expField x = 0 then F32.fraction x else (2 ^ 23 + F32.fraction x) * 2 ^ (F32.expField x - 1)

/-- The value of a finite pattern, in units of 2^-149. -/
def F32.value (x : F32) : Int :=
  if F32.sign x then -(F32.magnitude x : Int) else F32.magnitude x

/-- A pattern from a sign and the 31 low bits as a number. -/
def F32.ofSignBits (negative : Bool) (low : Nat) : F32 :=
  BitVec.ofNat 32 ((if negative then 2 ^ 31 else 0) + low)

/-- Division of `n` by `2 ^ q`, rounded to nearest, ties to even (00_scope.md R13). -/
def roundNearestEven (n q : Nat) : Nat :=
  let m := n / 2 ^ q
  let r := n % 2 ^ q
  if 2 ^ q < 2 * r ∨ (2 * r = 2 ^ q ∧ m % 2 = 1) then m + 1 else m

/-- The 31 low bits of the binary32 value nearest to `n` units of `2 ^ (-149 - s)`. The significand keeps 24 bits, or
fewer where the value is subnormal (subnormals are kept, 40_decimator.md R134). A significand that rounds up
to 2^24 carries into the exponent field, and a value beyond the largest finite one becomes infinity. -/
def roundLow (n s : Nat) : Nat :=
  let q := max s (Nat.log2 n - 23)
  min ((q - s) * 2 ^ 23 + roundNearestEven n q) 0x7F800000

/-- The NaN pattern of a draw: every NaN pattern is the image of exactly one draw (40_decimator.md R134). -/
def nanPattern (d : Fin 16777214) : F32 :=
  F32.ofSignBits (8388607 ≤ d.val) (0x7F800001 + d.val % 8388607)

/-- The NaN that operation `op` of the emission numbered `n` gives, if it gives one (log 3). -/
def nanResult (n op : Nat) : F32 := nanPattern (Config.nanDraw n op)

/-- `fadd(a, b)` (00_scope.md R13): `nan` is the pattern a NaN result has. -/
def fadd (nan a b : F32) : F32 :=
  if F32.isNaN a || F32.isNaN b then nan
  else if F32.isInf a then (if F32.isInf b && F32.sign a != F32.sign b then nan else a)
  else if F32.isInf b then b
  else
    let v := F32.value a + F32.value b
    if v = 0 then F32.ofSignBits (F32.sign a && F32.sign b) 0
    else F32.ofSignBits (v < 0) (roundLow v.natAbs 0)

/-- `fmul(a, b)` (00_scope.md R13): `nan` is the pattern a NaN result has. -/
def fmul (nan a b : F32) : F32 :=
  let negative := F32.sign a != F32.sign b
  if F32.isNaN a || F32.isNaN b then nan
  else if F32.isInf a || F32.isInf b then
    if (F32.isInf a && F32.magnitude b == 0) || (F32.isInf b && F32.magnitude a == 0) then nan
    else F32.ofSignBits negative 0x7F800000
  else F32.ofSignBits negative (roundLow (F32.magnitude a * F32.magnitude b) 149)

/-- `i2f(v)`: the f32 whose value is the integer `v` exactly (41_frame_packer.md R171). -/
def i2f (v : Half) : F32 := F32.ofSignBits (v.toInt < 0) (roundLow (v.toInt.natAbs * 2 ^ 149) 0)

/-- `f2s(x)`: NaN gives 0, saturate, else truncate toward zero (41_frame_packer.md R172). -/
def f2s (x : F32) : Half :=
  if F32.isNaN x then 0#16
  else if F32.isInf x then (if F32.sign x then BitVec.ofInt 16 (-32768) else 32767#16)
  else if 32767 * 2 ^ 149 ≤ F32.value x then 32767#16
  else if F32.value x ≤ -32768 * 2 ^ 149 then BitVec.ofInt 16 (-32768)
  else BitVec.ofInt 16 ((F32.value x).tdiv (2 ^ 149))

end Sys2Proof.Machine
end

