-- ==== Sys2Proof/Machine/Ops.lean ====
section
/-! DEFINITION. The shared operations over the RAM buffers and the state: byte order and memory
(20_memory.md R73, R74, R75), the result of a command (00_scope.md R15), the common part of every command
(30_encoding.md R109) and hardware reset (70_reset_and_hazards.md R270). -/

namespace Sys2Proof.Machine

/-! ### Byte order (20_memory.md R73) -/

/-- Byte `k` of a word, byte 0 the least significant. -/
def byteOfWord (w : Word) (k : Nat) : Byte := w.extractLsb' (8 * k) 8

/-- The two bytes of an i16 element, lowest offset first. -/
def halfBytes (v : Half) : List Byte := [v.extractLsb' 0 8, v.extractLsb' 8 8]

/-- The four bytes of a 32-bit element, lowest offset first. -/
def wordBytes (v : Word) : List Byte := [byteOfWord v 0, byteOfWord v 1, byteOfWord v 2, byteOfWord v 3]

/-- An i16 element from its two bytes, lowest offset first. -/
def halfOfBytes (b0 b1 : Byte) : Half := b1 ++ b0

/-- A 32-bit element from its four bytes, lowest offset first. -/
def wordOfFour (b0 b1 b2 b3 : Byte) : Word := b3 ++ b2 ++ b1 ++ b0

/-! ### The RAM buffers -/

/-- The canonical form of a memory: offsets strictly rising. An unlisted offset reads as nothing written, so no
entry can equal what an unlisted offset reads as (log 7). -/
abbrev Memory.wf (m : Memory) : Prop := m.Pairwise (fun x y => x.1 < y.1)

/-- Every listed offset lies in a RAM buffer. -/
abbrev Memory.inRam (m : Memory) : Prop := ∀ c ∈ m, (regionAt c.1).any Region.isRam = true

/-- The byte at an offset, if one has been written since hardware reset. -/
def Memory.byte? : Memory → Nat → Option Byte
  | [], _ => none
  | (b, v) :: rest, a => if a = b then some v else Memory.byte? rest a

/-- Write one byte, keeping the canonical form. -/
def Memory.store : Memory → Nat → Byte → Memory
  | [], a, v => [(a, v)]
  | (b, w) :: rest, a, v =>
    if a < b then (a, v) :: (b, w) :: rest
    else if a = b then (a, v) :: rest
    else (b, w) :: Memory.store rest a v

/-- Write bytes at rising offsets from `a`. -/
def Memory.storeBytes : Memory → Nat → List Byte → Memory
  | m, _, [] => m
  | m, a, v :: vs => Memory.storeBytes (Memory.store m a v) (a + 1) vs

/-- The i16 element at offset `a`, if the host or the core has written it (20_memory.md R74; log 7). -/
def Memory.half? (m : Memory) (a : Nat) : Option Half :=
  match m.byte? a, m.byte? (a + 1) with
  | some b0, some b1 => some (halfOfBytes b0 b1)
  | _, _ => none

/-- The f32 element at offset `a`, if the host or the core has written it (20_memory.md R75; log 7). -/
def Memory.word? (m : Memory) (a : Nat) : Option Word :=
  match m.byte? a, m.byte? (a + 1), m.byte? (a + 2), m.byte? (a + 3) with
  | some b0, some b1, some b2, some b3 => some (wordOfFour b0 b1 b2 b3)
  | _, _, _, _ => none

/-- Write i16 elements from offset `a` on: element i at `a + 2*i` (20_memory.md R71). -/
def Memory.storeHalves (m : Memory) (a : Nat) (vs : List Half) : Memory := m.storeBytes a (vs.flatMap halfBytes)

/-- Write 32-bit elements from offset `a` on: element i at `a + 4*i` (20_memory.md R71). -/
def Memory.storeWords (m : Memory) (a : Nat) (vs : List Word) : Memory := m.storeBytes a (vs.flatMap wordBytes)

/-! ### Arrays of cells -/

/-- Write `vs` to consecutive cells from index `i` on. Cells beyond the array's end are not written. -/
def writeCells {α : Type} {n : Nat} : Vector α n → Nat → List α → Vector α n
  | v, _, [] => v
  | v, i, x :: xs => writeCells (v.setIfInBounds i x) (i + 1) xs

/-! ### Results of a command -/

/-- `raise E(code)`: end the command at once with `result <- code`. Writes made before it stay done
(00_scope.md R15). There is no trap, vector or saved state (60_exceptions.md R246), so there is no return. -/
def State.raise (code : Half) (s : State) : State := { s with res := { s.res with result := code } }

/-- `result <- 0`, the last write of a command that succeeds (60_exceptions.md R241). -/
def State.succeed (s : State) : State := { s with res := { s.res with result := 0x0000#16 } }

/-! ### Reset of the machine -/

/-- Hardware reset (70_reset_and_hazards.md R270): every piece of the core's state at its power-on value of
10_state.md R59. What is no state of the core stays: the ROM, the strap, the host's actions and what it has
read, and the counters, of which `powerOn` moves on so that the buffers' contents are unspecified afresh
(log 17). -/
def State.hardwareReset (s : State) : State :=
  { State.reset with
    coef := s.coef
    allocCanFail := s.allocCanFail
    draws := { s.draws with powerOn := s.draws.powerOn + 1 }
    host := s.host
    rdata := s.rdata }

end Sys2Proof.Machine
end

