-- ==== Sys2Proof/Machine/Flags.lean ====
section
/-! DEFINITION. The status codes (60_exceptions.md R241), the four result flags (10_state.md R33,
60_exceptions.md R242), the common part of every command (30_encoding.md R109) and the register images of
10_state.md R50 to R56. -/

namespace Sys2Proof.Machine

/-- `OK`, 0 (60_exceptions.md R241). -/
def codeOk : Half := 0x0000#16
/-- `E_HANDLE`, -1 (60_exceptions.md R240, R241). -/
def codeHandle : Half := 0xFFFF#16
/-- `E_INPUT`, -2 (60_exceptions.md R241). -/
def codeInput : Half := 0xFFFE#16
/-- `E_ALLOC`, -3 (60_exceptions.md R241). -/
def codeAlloc : Half := 0xFFFD#16
/-- `E_ILLEGAL`, -4 (60_exceptions.md R241). -/
def codeIllegal : Half := 0xFFFC#16

/-- "No other value ever appears" (60_exceptions.md R241). -/
def isStatusCode (v : Half) : Bool :=
  v == codeOk || v == codeHandle || v == codeInput || v == codeAlloc || v == codeIllegal

/-- Every command clears the four flags before it does anything else (60_exceptions.md R242). -/
def State.clearFlags (s : State) : State :=
  { s with res := { s.res with ready := false, cskip := false, dwr := false, dskip := false } }

/-- The common start of a command: store the word, set `busy`, clear the flags (30_encoding.md R109). -/
def State.beginCommand (w : Word) (s : State) : State := { s with cmdreg := w, busy := true }.clearFlags

/-- The common end of a command, raised or not: `busy <- 0` (30_encoding.md R109). -/
def State.endCommand (s : State) : State := { s with busy := false }

/-- The flags of a chunk that PackStep completes: `ready`, and `cskip` when `ccap < 160`
(41_frame_packer.md R180). -/
def State.flagChunk (skipped : Bool) (s : State) : State :=
  { s with res := { s.res with ready := true, cskip := s.res.cskip || skipped } }

/-- The flag of a denoised frame: `dwr` when delivered, `dskip` when skipped (41_frame_packer.md R178). -/
def State.flagDenoised (skipped : Bool) (s : State) : State :=
  { s with res := { s.res with dwr := s.res.dwr || !skipped, dskip := s.res.dskip || skipped } }

/-- One flag as a register bit. -/
def bit (b : Bool) : BitVec 1 := BitVec.ofBool b

/-- STATUS (10_state.md R51): RESULT in bits 31:16, BUSY 6, DSKIP 5, DWR 4, CSKIP 3, READY 2, FE 1, VALID 0. -/
def statusWord (s : State) : Word :=
  s.res.result ++ 0#9 ++ bit s.busy ++ bit s.res.dskip ++ bit s.res.dwr ++ bit s.res.cskip ++ bit s.res.ready
    ++ bit s.fe ++ bit s.valid

/-- OUTCAP (10_state.md R52): DCAP in bits 24:16, CCAP in bits 7:0. -/
def outcapWord (s : State) : Word := 0#7 ++ s.dcap ++ 0#8 ++ s.ccap

/-- DEC_COUNT (10_state.md R53): bits 6:0 hold `dcount`. -/
def decCountWord (s : State) : Word := 0#25 ++ BitVec.ofNat 7 s.dcount

/-- PHASE (10_state.md R54): bits 2:0 hold `phase`. -/
def phaseWord (s : State) : Word := 0#29 ++ BitVec.ofNat 3 s.dec.phase.val

/-- WIDX (10_state.md R55): bits 6:0 hold `widx`. -/
def widxWord (s : State) : Word := 0#25 ++ BitVec.ofNat 7 s.dec.widx.val

/-- FILLED (10_state.md R56): bits 7:0 hold `filled`. -/
def filledWord (s : State) : Word := 0#24 ++ BitVec.ofNat 8 s.pack.filled.val

/-- A write to OUTCAP: the RW fields take the word's bits, the RAZ/WI bits are ignored (10_state.md R52,
20_memory.md R78). -/
def State.writeOutcap (v : Word) (s : State) : State :=
  { s with ccap := v.extractLsb' 0 8, dcap := v.extractLsb' 16 9 }

end Sys2Proof.Machine
end

