-- ==== Sys2Proof/Machine/Operands.lean ====
section
/-! DEFINITION. The operands of the commands: entries of `inbuf` and `decin`, the clamped frame length and the
assembled, zero-padded frame (41_frame_packer.md R173 to R175; 70_reset_and_hazards.md R278). -/

namespace Sys2Proof.Machine

/-- The offset of `inbuf[i]` (20_memory.md R71). -/
def inBufOffset (i : Nat) : Nat := inBufBase + 2 * i

/-- The offset of `decin[i]` (20_memory.md R71). -/
def decInOffset (i : Nat) : Nat := decInBase + 4 * i

/-- `inbuf[i]`; none when it has not been written since hardware reset (10_state.md R44). -/
def State.inbuf? (s : State) (i : Nat) : Option Half := s.mem.half? (inBufOffset i)

/-- `decin[i]`; none when it has not been written since hardware reset (10_state.md R47). -/
def State.decin? (s : State) (i : Nat) : Option F32 := s.mem.word? (decInOffset i)

/-- All the values of a list of entries; none when one entry was never written. -/
def gather {α : Type} : List (Option α) → Option (List α)
  | [] => some []
  | none :: _ => none
  | some a :: rest =>
    match gather rest with
    | some as => some (a :: as)
    | none => none

/-- `Lx = min(L, 480)`: the entries of `inbuf` that a PFRAME consumes (41_frame_packer.md R173, R175). -/
def frameLength (cnt : Nat) : Nat := min cnt 480

/-- The consumed entries `inbuf[0..Lx-1]`; none is `fault HostProtocol(unwritten input)`
(70_reset_and_hazards.md R278). -/
def State.frameInput (s : State) (cnt : Nat) : Option (List Half) :=
  gather ((List.range (frameLength cnt)).map s.inbuf?)

/-- The frame of 480 samples: `i2f(inbuf[i])` for `i < Lx`, and +0.0 beyond (41_frame_packer.md R173). -/
def assembleFrame (xs : List Half) : Vector F32 480 :=
  ⟨⟨(List.range 480).map (fun i => ((xs[i]?).map i2f).getD F32.zero)⟩, by simp⟩

/-- The consumed entries `decin[0..N-1]`; none is `fault HostProtocol(unwritten input)`
(70_reset_and_hazards.md R278). -/
def State.decinInput (s : State) (cnt : Nat) : Option (List F32) :=
  gather ((List.range cnt).map s.decin?)

end Sys2Proof.Machine
end

