-- ==== Sys2Proof/Machine/Decimator.lean ====
section
/-! DEFINITION. The Decimator's primitives and DPUSH (40_decimator.md R131 to R143). -/

namespace Sys2Proof.Machine

/-- DecClear (40_decimator.md R131). -/
def State.decClear (s : State) : State := { s with dec := DecimatorState.cleared }

/-- Window (40_decimator.md R133): `w[k] = hist[(widx + k) mod 96]`, oldest first. -/
def window (d : DecimatorState) : List F32 :=
  (List.range 96).map fun k => d.hist[(d.widx.val + k) % 96]'(Nat.mod_lt _ (by decide))

/-- The loop of FirDot from tap `k` on, over the remaining (coefficient, sample) pairs (40_decimator.md R134). The
NaN draws of a tap are numbers `2*k` for its product and `2*k + 1` for its sum (log 3). -/
def firLoop (n : Nat) : Nat → F32 → List (F32 × F32) → F32
  | _, a, [] => a
  | k, a, (c, x) :: rest =>
    firLoop n (k + 1) (fadd (nanResult n (2 * k + 1)) a (fmul (nanResult n (2 * k)) c x)) rest

/-- FirDot (40_decimator.md R134): ascending k from +0.0, each product and each sum rounded on its own. `n`
numbers the emission. -/
def firDot (coef : Vector F32 96) (n : Nat) (w : List F32) : F32 :=
  firLoop n 0 F32.zero (coef.toList.zip w)

/-- DecStep's insertion: `hist[widx] <- s`, then `widx <- (widx + 1) mod 96` (40_decimator.md R132). -/
def decInsert (d : DecimatorState) (x : F32) : DecimatorState :=
  { d with hist := d.hist.set d.widx.val x, widx := ⟨(d.widx.val + 1) % 96, Nat.mod_lt _ (by decide)⟩ }

/-- DecStep (40_decimator.md R132): insert, advance `phase`, and emit when it reaches 6. `n` numbers the
emission, if there is one. -/
def decStep (coef : Vector F32 96) (n : Nat) (d : DecimatorState) (x : F32) : DecimatorState × Option F32 :=
  let d1 := decInsert d x
  if h : d.phase.val + 1 < 6 then ({ d1 with phase := ⟨d.phase.val + 1, h⟩ }, none)
  else ({ d1 with phase := 0 }, some (firDot coef n (window d1)))

/-- What DecProcess leaves: the state, the number of the next emission, and the emitted samples in order. -/
structure DecRun where
  dec : DecimatorState
  emissions : Nat
  out : List F32
  deriving DecidableEq, Repr

/-- DecProcess (40_decimator.md R135): DecStep on each sample in order. -/
def decProcess (coef : Vector F32 96) : DecimatorState → Nat → List F32 → DecRun
  | d, n, [] => { dec := d, emissions := n, out := [] }
  | d, n, x :: xs =>
    match decStep coef n d x with
    | (d', some y) =>
      let r := decProcess coef d' (n + 1) xs
      { r with out := y :: r.out }
    | (d', none) => decProcess coef d' n xs

/-- DecProcess from the state's Decimator. -/
def State.decRun (s : State) (xs : List F32) : DecRun := decProcess s.coef s.dec s.draws.nan xs

/-- Take over the Decimator state and the emission counter that a DecProcess leaves. -/
def State.withDecRun (r : DecRun) (s : State) : State :=
  { s with dec := r.dec, draws := { s.draws with nan := r.emissions } }

/-- The offset of `decout[i]` (20_memory.md R71). -/
def decOutOffset (i : Nat) : Nat := decOutBase + 4 * i

/-- `decout[0..M-1]` and `dcount` of a successful DPUSH; `decout[M..79]` stay (40_decimator.md R142). -/
def State.storeDecOut (out : List F32) (s : State) : State :=
  { s with mem := s.mem.storeWords (decOutOffset 0) out, dcount := out.length }

/-- DPUSH N (40_decimator.md R142). -/
def execDpush (cnt : Nat) (s : State) : Outcome :=
  if s.valid = false then .next (s.raise codeHandle)
  else if 480 < cnt then .next (s.raise codeInput)
  else
    match s.decinInput cnt with
    | none => .fault (.hostProtocol .unwrittenInput)
    | some xs =>
      let r := s.decRun xs
      .next ((s.withDecRun r).storeDecOut r.out).succeed

end Sys2Proof.Machine
end

