-- ==== Sys2Proof/Machine/FramePacker.lean ====
section
/-! DEFINITION. The denoiser hand-off, the Frame Packer's primitives and PFRAME (41_frame_packer.md R173 to
R187). -/

namespace Sys2Proof.Machine

/-- PackClear (41_frame_packer.md R179). -/
def State.packClear (s : State) : State := { s with pack := FramePackerState.cleared }

/-- The offset of `chunkbuf[i]` (20_memory.md R71). -/
def chunkBufOffset (i : Nat) : Nat := chunkBufBase + 2 * i

/-- The offset of `denbuf[i]` (20_memory.md R71). -/
def denBufOffset (i : Nat) : Nat := denBufBase + 2 * i

/-- DeliverDenoised (41_frame_packer.md R178): all 480 cells of `denbuf`, or a skip when `dcap < 480`. -/
def State.deliverDenoised (y : Vector F32 480) (s : State) : State :=
  if 480 ≤ s.dcap.toNat then
    { s with mem := s.mem.storeHalves (denBufOffset 0) (y.toList.map f2s) }.flagDenoised false
  else s.flagDenoised true

/-- One denoiser call (41_frame_packer.md R176): the answer is a free value, and the call is counted (log 4). -/
def State.callDenoiser (x : Vector F32 480) (s : State) : Vector F32 480 × State :=
  (Config.denoise s.draws.denoise x, { s with draws := { s.draws with denoise := s.draws.denoise + 1 } })

/-- The optional denoiser of PFRAME: `y` is its answer, delivered, when `fe` = 1, and the frame itself when
`fe` = 0 (41_frame_packer.md R176, R178, R181). -/
def State.denoiseStage (x : Vector F32 480) (s : State) : Vector F32 480 × State :=
  if s.fe then ((s.callDenoiser x).1, (s.callDenoiser x).2.deliverDenoised (s.callDenoiser x).1)
  else (x, s)

/-- PackStep's accumulation (41_frame_packer.md R180): as many new samples as fit; the rest are dropped (R184).
The second component is the completed chunk, if `filled` reached 160. -/
def packStep (p : FramePackerState) (out : List F32) : FramePackerState × Option (Vector F32 160) :=
  let take := min out.length (160 - p.filled.val)
  let acc := writeCells p.acc p.filled.val (out.take take)
  if h : p.filled.val + take < 160 then ({ acc := acc, filled := ⟨p.filled.val + take, h⟩ }, none)
  else ({ acc := acc, filled := 0 }, some acc)

/-- The emission of a completed chunk (41_frame_packer.md R180): all 160 cells of `chunkbuf`, or a skip when
`ccap < 160`; `ready` either way. -/
def State.emitChunk (chunk : Vector F32 160) (s : State) : State :=
  if 160 ≤ s.ccap.toNat then
    { s with mem := s.mem.storeHalves (chunkBufOffset 0) (chunk.toList.map f2s) }.flagChunk false
  else s.flagChunk true

/-- PackStep on the state (41_frame_packer.md R180). -/
def State.packOutput (out : List F32) (s : State) : State :=
  match packStep s.pack out with
  | (p, none) => { s with pack := p }
  | (p, some chunk) => { s with pack := p }.emitChunk chunk

/-- The stages of an accepted PFRAME after frame assembly (41_frame_packer.md R181, 00_scope.md R4). -/
def State.runFrame (x : Vector F32 480) (s : State) : State :=
  let y := (s.denoiseStage x).1
  let s1 := (s.denoiseStage x).2
  let r := s1.decRun y.toList
  ((s1.withDecRun r).packOutput r.out).succeed

/-- PFRAME L (41_frame_packer.md R181). -/
def execPframe (cnt : Nat) (s : State) : Outcome :=
  if s.valid = false then .next (s.raise codeHandle)
  else if cnt = 0 then .next (s.raise codeInput)
  else
    match s.frameInput cnt with
    | none => .fault (.hostProtocol .unwrittenInput)
    | some xs => .next (s.runFrame (assembleFrame xs))

end Sys2Proof.Machine
end

