-- ==== Sys2Proof/Machine/Session.lean ====
section
/-! DEFINITION. The session commands CREATE, RESET and DESTROY, and the illegal word (42_session.md R210 to
R217). -/

namespace Sys2Proof.Machine

/-- DecClear, then PackClear: the session's state as after creation (42_session.md R210). -/
def State.clearSession (s : State) : State := s.decClear.packClear

/-- `valid <- 0; fe <- 0` and both clears: DESTROY, and the implicit destroy of CREATE (42_session.md R211,
R213). -/
def State.endSession (s : State) : State := { s with valid := false, fe := false }.clearSession

/-- `AllocDraw(FE) == fail`, drawn only where `ALLOC_CAN_FAIL` holds (42_session.md R211; log 5). -/
def State.allocDrawFails (fe : Bool) (s : State) : Bool :=
  s.allocCanFail && Config.allocFails s.draws.alloc fe

/-- Count an allocation draw, where one is made (log 5). -/
def State.countAlloc (s : State) : State :=
  if s.allocCanFail then { s with draws := { s.draws with alloc := s.draws.alloc + 1 } } else s

/-- CREATE fe (42_session.md R211). -/
def execCreate (fe : Bool) (s : State) : Outcome :=
  if s.allocDrawFails fe then .next (s.endSession.countAlloc.raise codeAlloc)
  else .next { s.endSession.countAlloc with valid := true, fe := fe }.succeed

/-- RESET (42_session.md R212). -/
def execReset (s : State) : Outcome :=
  if s.valid = false then .next (s.raise codeHandle)
  else .next s.clearSession.succeed

/-- DESTROY (42_session.md R213): never raises. -/
def execDestroy (s : State) : Outcome := .next s.endSession.succeed

/-- An illegal word (42_session.md R214): `E_ILLEGAL`, and nothing else changes. -/
def execIllegal (s : State) : Outcome := .next (s.raise codeIllegal)

end Sys2Proof.Machine
end

