-- ==== Sys2Proof/Machine/Bus.lean ====
section
/-! DEFINITION. The host's accesses to the window (20_memory.md R71 to R81): what a read returns, what a write
stores, and which access is a fault. A write to CMD is handed on as a command word. -/

namespace Sys2Proof.Machine

/-- What a host action comes to. -/
inductive BusResult where
  /-- It is complete. -/
  | done (s : State)
  /-- It was a legal write of `w` to CMD, which starts a command (20_memory.md R79). -/
  | command (w : Word) (s : State)
  /-- It is a host-protocol fault. -/
  | stop (f : Fault)
  deriving DecidableEq, Repr

/-- A byte of a RAM buffer as the host reads it: the byte written, or the free power-on byte
(10_state.md R59; log 6). -/
def State.ramByte (s : State) (off : Nat) : Byte :=
  (s.mem.byte? off).getD (Config.powerOnByte s.draws.powerOn off)

/-- Byte `k` of an f32 array from its base: element `k / 4`, little-endian (20_memory.md R73, R75). -/
def cellByte {n : Nat} (v : Vector F32 n) (k : Nat) : Byte := byteOfWord (v.getD (k / 4) 0#32) (k % 4)

/-- Byte `k` from the start of a region, at offset `off`, as a host read returns it while `busy` = 0
(20_memory.md R71, R73, R78). -/
def State.regionByte (s : State) (off k : Nat) : Region → Byte
  | .cmd => byteOfWord s.cmdreg k
  | .status => byteOfWord (statusWord s) k
  | .outcap => byteOfWord (outcapWord s) k
  | .decCount => byteOfWord (decCountWord s) k
  | .phase => byteOfWord (phaseWord s) k
  | .widx => byteOfWord (widxWord s) k
  | .filled => byteOfWord (filledWord s) k
  | .inBuf => s.ramByte off
  | .chunkBuf => s.ramByte off
  | .denBuf => s.ramByte off
  | .decIn => s.ramByte off
  | .decOut => s.ramByte off
  | .coef => cellByte s.coef k
  | .hist => cellByte s.dec.hist k
  | .acc => cellByte s.pack.acc k
  | .reserved => 0#8

/-- The byte at an offset of the window; none outside it. -/
def State.windowByte? (s : State) (off : Nat) : Option Byte :=
  match rowAt off with
  | some r => some (s.regionByte off (off - r.first) r.region)
  | none => none

/-- The byte of a legal access at an offset: every byte of one lies in the window (20_memory.md R77). -/
def State.windowByte (s : State) (off : Nat) : Byte := (s.windowByte? off).getD 0#8

/-- The value of a legal read while `busy` = 0, zero-extended (20_memory.md R73, R74, R75). -/
def State.readValue (s : State) (off size : Nat) : Word :=
  if size = 2 then (halfOfBytes (s.windowByte off) (s.windowByte (off + 1))).setWidth 32
  else wordOfFour (s.windowByte off) (s.windowByte (off + 1)) (s.windowByte (off + 2)) (s.windowByte (off + 3))

/-- The low `size` bytes of a value (00_scope.md R14: a read returns an n-byte value). -/
def truncateTo (size : Nat) (v : Word) : Word := if size = 2 then (v.setWidth 16).setWidth 32 else v

/-- The value of a legal read while `busy` = 1: any value, but STATUS shows BUSY = 1 (20_memory.md R81; log 8). -/
def State.busyValue (s : State) (off size : Nat) : Word :=
  let any := truncateTo size (Config.busyReadBits s.draws.busyRead)
  if regionAt off = some .status then any ||| 0x00000040#32 else any

/-- `MemRead(off, size)` (00_scope.md R14, 20_memory.md R77 to R81). -/
def hostRead (off size : Nat) (s : State) : BusResult :=
  if legalAccess off size = false then .stop (.hostProtocol .busError)
  else if s.busy then
    .done { s with
      rdata := some { size := size, value := s.busyValue off size }
      draws := { s.draws with busyRead := s.draws.busyRead + 1 } }
  else .done { s with rdata := some { size := size, value := s.readValue off size } }

/-- The bytes a write of `size` bytes carries, lowest offset first (20_memory.md R73, R74). -/
def writtenBytes (size : Nat) (v : Word) : List Byte :=
  if size = 2 then halfBytes (v.setWidth 16) else wordBytes v

/-- What a legal write stores while `busy` = 0, CMD apart: OUTCAP's fields, bytes of IN_BUF and DEC_IN, and
nothing anywhere else (20_memory.md R71, R78, R79). -/
def State.hostStore (off size : Nat) (v : Word) (s : State) : State :=
  match regionAt off with
  | some .outcap => s.writeOutcap v
  | some .inBuf => { s with mem := s.mem.storeBytes off (writtenBytes size v) }
  | some .decIn => { s with mem := s.mem.storeBytes off (writtenBytes size v) }
  | _ => s

/-- `MemWrite(off, size, v)` (00_scope.md R14, 20_memory.md R77 to R81). An access that is illegal is a bus
error whether `busy` or not (log 9). -/
def hostWrite (off size : Nat) (v : Word) (s : State) : BusResult :=
  if legalAccess off size = false then .stop (.hostProtocol .busError)
  else if s.busy && (regionAt off).any Region.hostWritable then .stop (.hostProtocol .accessWhileBusy)
  else if regionAt off = some .cmd then .command v s
  else .done (s.hostStore off size v)

/-- One host action. -/
def hostAct (a : HostAction) (s : State) : BusResult :=
  match a with
  | .read off size => hostRead off size s
  | .write off size v => hostWrite off size v s
  | .hardwareReset => .done s.hardwareReset

/-! The assembler's names for host accesses (30_encoding.md R110). -/

/-- `W32 off, v`. -/
def w32 (off : Nat) (v : Word) : HostAction := .write off 4 v
/-- `W16 off, v`. -/
def w16 (off : Nat) (v : Half) : HostAction := .write off 2 (v.setWidth 32)
/-- `R32 off`. -/
def r32 (off : Nat) : HostAction := .read off 4
/-- `R16 off`. -/
def r16 (off : Nat) : HostAction := .read off 2
/-- `.word w`: any word, written to CMD as it is. -/
def cmdWord (w : Word) : HostAction := w32 0x000 w
/-- `POLL`: in the model a single read of STATUS is enough (20_memory.md R80). -/
def poll : HostAction := r32 0x004

end Sys2Proof.Machine
end

