-- ==== Sys2Proof/Syntax.lean ====
section
/-! DEFINITION. The commands: one constructor per row of spec/opcode_table.json (30_encoding.md R106). -/

namespace Sys2Proof

/-- A command with its assembled operands (30_encoding.md R105). -/
inductive Instr where
  /-- `CREATE fe`, format F (42_session.md R211). -/
  | create (fe : Bool)
  /-- `DESTROY`, format N (42_session.md R213). -/
  | destroy
  /-- `RESET`, format N (42_session.md R212). -/
  | reset
  /-- `PFRAME L`, format C (41_frame_packer.md R181). -/
  | pframe (cnt : Nat)
  /-- `DPUSH N`, format C (40_decimator.md R142). -/
  | dpush (cnt : Nat)
  deriving DecidableEq, Repr

/-- The pseudo-commands of 30_encoding.md R111. -/
inductive Pseudo where
  | create
  | createNs
  | pframe
  | dpushFrame
  deriving DecidableEq, Repr

/-- Each pseudo-command expands to one real command (30_encoding.md R111). -/
def Pseudo.expand : Pseudo → Instr
  | .create => .create false
  | .createNs => .create true
  | .pframe => .pframe 480
  | .dpushFrame => .dpush 480

end Sys2Proof
end

