-- ==== Sys2Proof/WellFormed.lean ====
section
/-! DEFINITION. Which terms of `Instr` an encoding exists for: a count fits the 9-bit field CNT
(30_encoding.md R104, R110). -/

namespace Sys2Proof

/-- "An operand that does not fit its field is an assembly error" (30_encoding.md R110). -/
def Instr.wellFormed : Instr → Bool
  | .create _ => true
  | .destroy => true
  | .reset => true
  | .pframe cnt => cnt ≤ 511
  | .dpush cnt => cnt ≤ 511

end Sys2Proof
end

