-- ==== Sys2Proof/Decode.lean ====
section
/-! DEFINITION. The command decoder, total on every word and on any bytes, then the encoder and the
assembler (30_encoding.md R100 to R111). -/

namespace Sys2Proof

/-- Why a word or a byte string is no command (30_encoding.md R107). The reasons are the model's names: the
hardware reports `E_ILLEGAL` for the first two alike (log 21). -/
inductive DecodeError where
  /-- OP is 0x0 or 0x6 to 0xF. -/
  | unassignedOpcode (op : BitVec 4)
  /-- OP is assigned, and a Z or Z0 bit of its format is 1. -/
  | reservedBits
  /-- Fewer than four bytes: not a command word. -/
  | truncated
  deriving DecidableEq, Repr

/-- A decoder's answer. -/
inductive Decoded (α : Type) where
  | ok (a : α)
  | illegal (e : DecodeError)
  deriving DecidableEq, Repr

/-- OP, bits 3:0 (30_encoding.md R101). -/
def opField (w : Word) : BitVec 4 := w.extractLsb' 0 4

/-- `FE = cmd[8]` (30_encoding.md R105). -/
def feField (w : Word) : Bool := w.getLsbD 8

/-- `CNT = zext_32(cmd[16:8])`, 0..511 (30_encoding.md R105). -/
def cntField (w : Word) : Nat := (w.extractLsb' 8 9).toNat

/-- The reason a word that matches no row is illegal (30_encoding.md R107). -/
def illegalReason (w : Word) : DecodeError :=
  if 1 ≤ (opField w).toNat ∧ (opField w).toNat ≤ 5 then .reservedBits else .unassignedOpcode (opField w)

/-- The decoder, in the order of 30_encoding.md R109. -/
def decode (w : Word) : Decoded Instr :=
  if w &&& 0xFFFFFEFF#32 = 0x00000001#32 then .ok (.create (feField w))
  else if w = 0x00000002#32 then .ok .destroy
  else if w = 0x00000003#32 then .ok .reset
  else if w &&& 0xFFFE00FF#32 = 0x00000004#32 then .ok (.pframe (cntField w))
  else if w &&& 0xFFFE00FF#32 = 0x00000005#32 then .ok (.dpush (cntField w))
  else .illegal (illegalReason w)

/-- The word that four bytes hold, the first the least significant (20_memory.md R73). -/
def wordOfBytes (b0 b1 b2 b3 : Byte) : Word := b3 ++ b2 ++ b1 ++ b0

/-- The decoder on a byte string: one command of four bytes (30_encoding.md R100) and the rest. -/
def decodeBytes : List Byte → Decoded (Instr × List Byte)
  | b0 :: b1 :: b2 :: b3 :: rest =>
    match decode (wordOfBytes b0 b1 b2 b3) with
    | .ok i => .ok (i, rest)
    | .illegal e => .illegal e
  | _ => .illegal .truncated

/-- The 32-bit word of a table row's bits, every bit above `nbits` 0. -/
def tableWord (nbits w : Nat) : Word := BitVec.ofNat 32 (w % 2 ^ nbits)

/-- The four bytes of a word as the window stores them, lowest offset first (20_memory.md R73). -/
def bytesOfWord (w : Word) : List Byte :=
  [w.extractLsb' 0 8, w.extractLsb' 8 8, w.extractLsb' 16 8, w.extractLsb' 24 8]

/-- The command the decoder reads from a word numbered as spec/opcode_table.json numbers it. -/
def decodeTableWord (nbits w : Nat) : Option Instr :=
  match decodeBytes (bytesOfWord (tableWord nbits w)) with
  | .ok (i, _) => some i
  | .illegal _ => none

/-- One row of the opcode map (30_encoding.md R106). -/
structure OpcodeRow where
  mnemonic : String
  bits : Word
  mask : Word
  deriving DecidableEq, Repr

/-- The opcode map (30_encoding.md R106): a word selects a row exactly when `(w & mask) == match`. -/
def opcodeMap : List OpcodeRow :=
  [ ⟨"CREATE", 0x00000001#32, 0xFFFFFEFF#32⟩,
    ⟨"DESTROY", 0x00000002#32, 0xFFFFFFFF#32⟩,
    ⟨"RESET", 0x00000003#32, 0xFFFFFFFF#32⟩,
    ⟨"PFRAME", 0x00000004#32, 0xFFFE00FF#32⟩,
    ⟨"DPUSH", 0x00000005#32, 0xFFFE00FF#32⟩ ]

/-- `(w & mask) == match` (30_encoding.md R106). -/
def OpcodeRow.selects (r : OpcodeRow) (w : Word) : Bool := w &&& r.mask == r.bits

/-- The mnemonic of a command (30_encoding.md R106). -/
def Instr.mnemonic : Instr → String
  | .create _ => "CREATE"
  | .destroy => "DESTROY"
  | .reset => "RESET"
  | .pframe _ => "PFRAME"
  | .dpush _ => "DPUSH"

/-- Format F: FE in bit 8 (30_encoding.md R103). -/
def formatF (op : Word) (fe : Bool) : Word := op ||| (if fe then 0x00000100#32 else 0#32)

/-- Format C: CNT in bits 16:8 (30_encoding.md R104). -/
def formatC (op : Word) (cnt : Nat) : Word := op ||| (BitVec.ofNat 32 cnt <<< 8)

/-- The word of a command (30_encoding.md R110). Meant for well-formed commands: see `assemble`. -/
def encode : Instr → Word
  | .create fe => formatF 0x00000001#32 fe
  | .destroy => 0x00000002#32
  | .reset => 0x00000003#32
  | .pframe cnt => formatC 0x00000004#32 cnt
  | .dpush cnt => formatC 0x00000005#32 cnt

/-- The assembler refuses an operand that does not fit its field: "it never truncates" (30_encoding.md R110). -/
def assemble (i : Instr) : Option Word := if i.wellFormed then some (encode i) else none

end Sys2Proof
end

