-- ==== Sys2Proof/Machine/Dispatch.lean ====
section
/-! DEFINITION. Dispatch: one arm per command (30_encoding.md R109), each a direct call of its meaning. -/

namespace Sys2Proof.Machine

def exec (i : Instr) (s : State) : Host.Outcome State Fault Refusal :=
  match i with
  | .create fe => Sys2Proof.Machine.execCreate fe s
  | .destroy => Sys2Proof.Machine.execDestroy s
  | .reset => Sys2Proof.Machine.execReset s
  | .pframe cnt => Sys2Proof.Machine.execPframe cnt s
  | .dpush cnt => Sys2Proof.Machine.execDpush cnt s

end Sys2Proof.Machine
end

