-- ==== Sys2Proof/Machine/Command.lean ====
section
/-! DEFINITION. What a write to CMD runs: the decode of the word, the common start, the body and the common end
(30_encoding.md R109). -/

namespace Sys2Proof.Machine

/-- The body a command word selects: its command, or the illegal word (30_encoding.md R109). -/
def execWord (w : Word) (s : State) : Outcome :=
  match decode w with
  | .ok i => exec i s
  | .illegal _ => execIllegal s

/-- A write of `w` to CMD, from its decode to `busy <- 0`, as one atomic step (30_encoding.md R109). -/
def runCommand (w : Word) (s : State) : Outcome :=
  match execWord w (s.beginCommand w) with
  | .next t => .next t.endCommand
  | .fault f => .fault f
  | .refused r => .refused r

end Sys2Proof.Machine
end

