-- ==== Sys2Proof/Machine/Step.lean ====
section
/-! DEFINITION. One step: the oldest host action, performed whole, with its command when it is a write to CMD
(20_memory.md R80; 30_encoding.md R109). -/

namespace Sys2Proof.Machine

/-- One step. With no host action the core is idle and keeps all state (60_exceptions.md R256; log 2). -/
def step (s : State) : Host.Outcome State Fault Refusal :=
  match s.host with
  | [] => .next s
  | a :: rest =>
    match hostAct a { s with host := rest } with
    | .done t => .next t
    | .command w t => runCommand w t
    | .stop f => .fault f

/-- The state whose next step is the host's write of the command word to CMD: the word first in the list of
host actions, and the core not busy (log 1). -/
def State.withFetchWord (s : State) (nbits w : Nat) : State :=
  { s with host := cmdWord (tableWord nbits w) :: s.host, busy := false }

end Sys2Proof.Machine
end

