-- ==== Sys2Proof/Safety.lean ====
section
/-! DEFINITION. What counts as a safe run, in the terms the claims use: the invariant of the states between host
actions, whole entries in the RAM buffers, a host that keeps to the protocol (60_exceptions.md R249), and the
accepted frames of a run (41_frame_packer.md R183). -/

namespace Sys2Proof.Machine

/-- What holds of the state between any two host actions. -/
structure State.Inv (s : State) : Prop where
  /-- No command is running (20_memory.md R80). -/
  notBusy : s.busy = false
  /-- The RAM buffers' bytes are in canonical form (log 7). -/
  memWf : s.mem.wf
  /-- Only bytes of the five RAM buffers are listed (20_memory.md R71). -/
  memInRam : s.mem.inRam
  /-- The ROM holds `H` at all times (10_state.md R41). -/
  rom : s.coef = Config.coefficients
  /-- `filled` is always 0 or 80 before a command (41_frame_packer.md R184). -/
  halfFrames : s.pack.filled.val = 0 ∨ s.pack.filled.val = 80
  /-- `dcount` is in 0..80 (10_state.md R43). -/
  dcountBound : s.dcount ≤ 80
  /-- `result` is one of the five codes (60_exceptions.md R241). -/
  code : isStatusCode s.res.result = true
  /-- Without a session `fe` and the Decimator and Packer state are clear (42_session.md R216). -/
  noSession : s.valid = false → s.fe = false ∧ s.dec = DecimatorState.cleared ∧ s.pack = FramePackerState.cleared
  /-- `E_HANDLE` and `E_ALLOC` leave no session; `E_INPUT` leaves one (60_exceptions.md R241, R243). -/
  codeAndSession : (s.res.result = codeHandle → s.valid = false) ∧ (s.res.result = codeAlloc → s.valid = false)
    ∧ (s.res.result = codeInput → s.valid = true)
  /-- Only a platform whose allocations can fail reports `E_ALLOC` (42_session.md R211). -/
  allocStrap : s.res.result = codeAlloc → s.allocCanFail = true
  /-- A raised command leaves all four flags at 0 (60_exceptions.md R242), and only PFRAME, which needs a session,
  sets one (10_state.md R33). -/
  flagsNeedSuccess : (s.res.ready || s.res.cskip || s.res.dwr || s.res.dskip) = true →
    s.res.result = codeOk ∧ s.valid = true
  /-- A skipped chunk was a completed one (41_frame_packer.md R180). -/
  skipIsReady : s.res.cskip = true → s.res.ready = true
  /-- A completed chunk leaves the accumulator empty (41_frame_packer.md R180). -/
  readyIsEmpty : s.res.ready = true → s.pack.filled.val = 0
  /-- A denoised frame is delivered or skipped, not both, and only in a session with the denoiser
  (41_frame_packer.md R178). -/
  denoisedFlags : (s.res.dwr && s.res.dskip) = false ∧ ((s.res.dwr || s.res.dskip) = true → s.fe = true)

/-- Every entry of the RAM buffers is listed whole or not at all, so "has been written" (70_reset_and_hazards.md
R278) is a property of the entry (log 7). -/
structure Memory.wholeEntries (m : Memory) : Prop where
  inBuf : ∀ i < 480, (m.byte? (inBufOffset i)).isSome = (m.byte? (inBufOffset i + 1)).isSome
  chunkBuf : ∀ i < 160, (m.byte? (chunkBufOffset i)).isSome = (m.byte? (chunkBufOffset i + 1)).isSome
  denBuf : ∀ i < 480, (m.byte? (denBufOffset i)).isSome = (m.byte? (denBufOffset i + 1)).isSome
  decIn : ∀ i < 480, ∀ k < 4, (m.byte? (decInOffset i)).isSome = (m.byte? (decInOffset i + k)).isSome
  decOut : ∀ i < 80, ∀ k < 4, (m.byte? (decOutOffset i)).isSome = (m.byte? (decOutOffset i + k)).isSome

/-- The command the next host action writes to CMD, if it is a legal write of a legal command word. -/
def State.nextCommand? (s : State) : Option Instr :=
  match s.host with
  | .write 0 4 w :: _ =>
    match decode w with
    | .ok i => some i
    | .illegal _ => none
  | _ => none

/-- Whether the next host action is a PFRAME that passes its checks (41_frame_packer.md R181, R183). -/
def State.nextAcceptsFrame (s : State) : Bool :=
  match s.nextCommand? with
  | some (.pframe cnt) => s.valid && cnt != 0
  | _ => false

/-- Whether the next host action is one that clears the packer: CREATE, RESET, DESTROY or a hardware reset
(70_reset_and_hazards.md R272). -/
def State.nextClearsSession (s : State) : Bool :=
  match s.host with
  | .hardwareReset :: _ => true
  | _ =>
    match s.nextCommand? with
    | some (.create _) => true
    | some .reset => true
    | some .destroy => true
    | _ => false

/-- `k` steps, stopping at the first fault or refusal. -/
def runSteps : Nat → State → Outcome
  | 0, s => .next s
  | k + 1, s =>
    match step s with
    | .next t => runSteps k t
    | .fault f => .fault f
    | .refused r => .refused r

/-- How many frames the first `k` steps accept (41_frame_packer.md R183: raised PFRAMEs and DPUSHes are not
counted). -/
def framesAccepted : Nat → State → Nat
  | 0, _ => 0
  | k + 1, s =>
    (if s.nextAcceptsFrame then 1 else 0) +
      match step s with
      | .next t => framesAccepted k t
      | .fault _ => 0
      | .refused _ => 0

/-- Whether one of the first `k` steps clears the packer. -/
def clearsWithin : Nat → State → Bool
  | 0, _ => false
  | k + 1, s =>
    s.nextClearsSession ||
      match step s with
      | .next t => clearsWithin k t
      | .fault _ => false
      | .refused _ => false

/-- A host that keeps to the protocol through `k` steps: none of them is a host-protocol fault
(60_exceptions.md R249). -/
def hostKeepsProtocol : Nat → State → Bool
  | 0, _ => true
  | k + 1, s =>
    match step s with
    | .next t => hostKeepsProtocol k t
    | .fault _ => false
    | .refused _ => false

end Sys2Proof.Machine
end

