-- ==== Sys2Proof/Certificates/Slice0/Obligations.lean ====
section
/-! DEFINITION. The statements for the provers, in the order of OBLIGATIONS.json. Every statement is about every
state, coefficient table, draw and host action list unless it names a premise. -/

open Sys2Proof Sys2Proof.Machine

/-! ### Encoding (30_encoding.md) -/

/-- R104, R105, R110: the decoder undoes the encoder on every command whose operand fits its field, and the
assembler refuses every other one. -/
def Obligations.DecodeOfEncodeIsTheCommand : Prop :=
  ∀ i : Instr,
    (i.wellFormed = true → decode (encode i) = .ok i ∧ assemble i = some (encode i)) ∧
    (i.wellFormed = false → assemble i = none)

/-- R108, R109: a word has one meaning only: what a word decodes to is well formed and encodes to that word. -/
def Obligations.EncodeOfDecodeIsTheWord : Prop :=
  ∀ (w : Word) (i : Instr), decode w = .ok i → i.wellFormed = true ∧ encode i = w

/-- R106: the opcode map, row by row; a word selects a command exactly when `(w & mask) == match`; the rows do not
overlap. -/
def Obligations.DecoderSelectsTheOpcodeRow : Prop :=
  opcodeMap.map (fun r => (r.mnemonic, r.bits, r.mask)) =
      [("CREATE", 0x00000001#32, 0xFFFFFEFF#32), ("DESTROY", 0x00000002#32, 0xFFFFFFFF#32),
       ("RESET", 0x00000003#32, 0xFFFFFFFF#32), ("PFRAME", 0x00000004#32, 0xFFFE00FF#32),
       ("DPUSH", 0x00000005#32, 0xFFFE00FF#32)] ∧
  ∀ w : Word,
    (∀ r ∈ opcodeMap, (w &&& r.mask = r.bits ↔ ∃ i, decode w = .ok i ∧ i.mnemonic = r.mnemonic)) ∧
    (∀ r ∈ opcodeMap, ∀ r' ∈ opcodeMap, w &&& r.mask = r.bits → w &&& r'.mask = r'.bits → r = r')

/-- R107: which words are illegal, and what one does: it is stored in `cmdreg`, clears the result flags, writes
-4 to `result`, and changes nothing else. -/
def Obligations.IllegalWordsAndTheirEffect : Prop :=
  ∀ w : Word,
    ((∃ e, decode w = .illegal e) ↔
      w.extractLsb' 0 4 = 0#4 ∨ 6 ≤ (w.extractLsb' 0 4).toNat ∨ w.extractLsb' 4 4 ≠ 0#4 ∨
      (w.extractLsb' 0 4 = 1#4 ∧ w.extractLsb' 9 23 ≠ 0#23) ∨
      ((w.extractLsb' 0 4 = 2#4 ∨ w.extractLsb' 0 4 = 3#4) ∧ w.extractLsb' 8 24 ≠ 0#24) ∨
      ((w.extractLsb' 0 4 = 4#4 ∨ w.extractLsb' 0 4 = 5#4) ∧ w.extractLsb' 17 15 ≠ 0#15)) ∧
    ∀ (s : State) (rest : List HostAction) (e : DecodeError), decode w = .illegal e → s.busy = false →
      step { s with host := .write 0x000 4 w :: rest } =
        .next { s with
          host := rest
          cmdreg := w
          res := { result := 0xFFFC#16, ready := false, cskip := false, dwr := false, dskip := false } }

/-- R109: a 32-bit host write of `w` to CMD, from the common start through the decode to `busy <- 0`, as one
step. -/
def Obligations.CommandWriteDecodesAndDispatches : Prop :=
  ∀ (s : State) (rest : List HostAction) (w : Word), s.busy = false →
    let start : State := { s with
      host := rest
      cmdreg := w
      busy := true
      res := { result := s.res.result, ready := false, cskip := false, dwr := false, dskip := false } }
    let body : Outcome :=
      if w &&& 0xFFFFFEFF#32 = 0x00000001#32 then exec (.create (w.getLsbD 8)) start
      else if w = 0x00000002#32 then exec .destroy start
      else if w = 0x00000003#32 then exec .reset start
      else if w &&& 0xFFFE00FF#32 = 0x00000004#32 then exec (.pframe (w.extractLsb' 8 9).toNat) start
      else if w &&& 0xFFFE00FF#32 = 0x00000005#32 then exec (.dpush (w.extractLsb' 8 9).toNat) start
      else .next { start with res := { start.res with result := 0xFFFC#16 } }
    step { s with host := .write 0x000 4 w :: rest } =
      match body with
      | .next t => .next { t with busy := false }
      | .fault f => .fault f
      | .refused r => .refused r

/-- R109 in the decoder's terms: a write to CMD of a word that decodes to `i` runs `exec i` between the common
start and `busy <- 0`. -/
def Obligations.StepRunsTheDecodedCommand : Prop :=
  ∀ (s : State) (rest : List HostAction) (w : Word) (i : Instr), s.busy = false → decode w = .ok i →
    step { s with host := .write 0x000 4 w :: rest } =
      match exec i (State.beginCommand w { s with host := rest }) with
      | .next t => .next t.endCommand
      | .fault f => .fault f
      | .refused r => .refused r

/-- R103, R104, R106: words written out from the formats decode to the commands they stand for. -/
def Obligations.WrittenOutWordsDecode : Prop :=
  decode 0b00000000000000000000000100000001#32 = .ok (.create true) ∧
  decode 0b00000000000000000000000000000001#32 = .ok (.create false) ∧
  decode 0b00000000000000000000000000000010#32 = .ok .destroy ∧
  decode 0b00000000000000000000000000000011#32 = .ok .reset ∧
  decode 0b00000000000000011110000000000100#32 = .ok (.pframe 480) ∧
  decode 0b00000000000000011110000100000101#32 = .ok (.dpush 481)

/-! ### Session commands (42_session.md) -/

/-- R211: CREATE ends any session, clears the Decimator and the Packer, and starts a session with its FE, or,
where the platform's allocation can fail and does, leaves none and reports -3. Nothing else changes (the draw
counter is the model's own, log 5). -/
def Obligations.CreateStartsAClearedSession : Prop :=
  ∀ (fe : Bool) (s : State),
    let failed : Bool := s.allocCanFail && Config.allocFails s.draws.alloc fe
    exec (.create fe) s = .next { s with
      valid := !failed
      fe := !failed && fe
      dec := { hist := Vector.replicate 96 0#32, widx := 0, phase := 0 }
      pack := { acc := Vector.replicate 160 0#32, filled := 0 }
      res := { s.res with result := if failed then 0xFFFD#16 else 0x0000#16 }
      draws := { s.draws with alloc := if s.allocCanFail then s.draws.alloc + 1 else s.draws.alloc } }

/-- R212: RESET clears the Decimator and the Packer of a session, keeps `valid` and `fe` and everything else,
and raises -1 without a session. -/
def Obligations.ResetClearsTheSession : Prop :=
  ∀ s : State,
    (s.valid = true →
      exec .reset s = .next { s with
        dec := { hist := Vector.replicate 96 0#32, widx := 0, phase := 0 }
        pack := { acc := Vector.replicate 160 0#32, filled := 0 }
        res := { s.res with result := 0x0000#16 } }) ∧
    (s.valid = false → exec .reset s = .next { s with res := { s.res with result := 0xFFFF#16 } })

/-- R213: DESTROY clears `valid`, `fe`, the Decimator and the Packer, and never raises. -/
def Obligations.DestroyEndsTheSession : Prop :=
  ∀ s : State,
    exec .destroy s = .next { s with
      valid := false
      fe := false
      dec := { hist := Vector.replicate 96 0#32, widx := 0, phase := 0 }
      pack := { acc := Vector.replicate 160 0#32, filled := 0 }
      res := { s.res with result := 0x0000#16 } }

/-- R216: a second DESTROY leaves the state of the first, but for `cmdreg`, which each writes with its own word; and
in a state between host actions with no session, DESTROY changes nothing but `cmdreg`, `result` and the
flags. -/
def Obligations.DestroyIsIdempotent : Prop :=
  (∀ (s t : State) (rest : List HostAction), s.host = .write 0x000 4 0x2#32 :: .write 0x000 4 0x2#32 :: rest →
    step s = .next t → step t = .next { t with host := rest } ∧ t.res.result = 0x0000#16) ∧
  (∀ (s : State) (rest : List HostAction), s.Inv → s.valid = false → s.host = .write 0x000 4 0x2#32 :: rest →
    step s = .next { s with
      host := rest
      cmdreg := 0x2#32
      res := { result := 0x0000#16, ready := false, cskip := false, dwr := false, dskip := false } })

/-- R215: RESET of a session leaves the session state that a fresh CREATE with the same `filterEnabled` leaves. -/
def Obligations.ResetLeavesAFreshSession : Prop :=
  ∀ s f t u : State, s.valid = true → f.valid = false → f.allocCanFail = false →
    exec .reset s = .next t → exec (.create s.fe) f = .next u →
    t.dec = u.dec ∧ t.pack = u.pack ∧ t.valid = u.valid ∧ t.fe = u.fe ∧ t.res.result = u.res.result

/-- R215, R140: a command's effect depends on the session state, the capacities, the inputs and the free draws
alone. Two states that agree on those end alike, and agree again, whatever `cmdreg`, `dcount` and the output
buffers hold; and each output (`dcount`, a byte of a buffer) is either left alone in both or ends the same in both. So
any later command sequence gives the same outputs from either start. -/
def Obligations.CommandsDependOnSessionStateOnly : Prop :=
  ∀ (i : Instr) (s s' : State),
    s'.valid = s.valid → s'.fe = s.fe → s'.dec = s.dec → s'.pack = s.pack → s'.coef = s.coef →
    s'.ccap = s.ccap → s'.dcap = s.dcap → s'.draws = s.draws → s'.allocCanFail = s.allocCanFail →
    s'.res = s.res →
    (∀ k < 480, s'.inbuf? k = s.inbuf? k) → (∀ k < 480, s'.decin? k = s.decin? k) →
    (∀ f, exec i s = .fault f → exec i s' = .fault f) ∧
    (∀ t, exec i s = .next t → ∃ t', exec i s' = .next t' ∧
      t'.valid = t.valid ∧ t'.fe = t.fe ∧ t'.dec = t.dec ∧ t'.pack = t.pack ∧ t'.coef = t.coef ∧
      t'.ccap = t.ccap ∧ t'.dcap = t.dcap ∧ t'.draws = t.draws ∧ t'.allocCanFail = t.allocCanFail ∧
      t'.res = t.res ∧
      (∀ k < 480, t'.inbuf? k = t.inbuf? k) ∧ (∀ k < 480, t'.decin? k = t.decin? k) ∧
      ((t.dcount = s.dcount ∧ t'.dcount = s'.dcount) ∨ t'.dcount = t.dcount) ∧
      (∀ a, (t.mem.byte? a = s.mem.byte? a ∧ t'.mem.byte? a = s'.mem.byte? a) ∨ t'.mem.byte? a = t.mem.byte? a))

/-- R217: only a CREATE or a DESTROY, or a hardware reset, changes `fe` or `valid`; no other host action does. -/
def Obligations.SessionFlagsFixedForTheSession : Prop :=
  ∀ s t : State, step s = .next t → (t.fe ≠ s.fe ∨ t.valid ≠ s.valid) →
    (∃ rest, s.host = .hardwareReset :: rest) ∨
    (∃ w rest, s.host = .write 0x000 4 w :: rest ∧ ((∃ fe, decode w = .ok (.create fe)) ∨ decode w = .ok .destroy))

/-! ### Errors (60_exceptions.md) -/

/-- R240: RESET, PFRAME and DPUSH without a session raise -1 and are no-ops; CREATE and DESTROY never raise -1. -/
def Obligations.CommandsWithoutASessionRaiseHandle : Prop :=
  (∀ (s : State) (n : Nat), s.valid = false →
    exec .reset s = .next { s with res := { s.res with result := 0xFFFF#16 } } ∧
    exec (.pframe n) s = .next { s with res := { s.res with result := 0xFFFF#16 } } ∧
    exec (.dpush n) s = .next { s with res := { s.res with result := 0xFFFF#16 } }) ∧
  (∀ (s : State) (fe : Bool), ∃ t u, exec (.create fe) s = .next t ∧ t.res.result ≠ 0xFFFF#16 ∧
    exec .destroy s = .next u ∧ u.res.result ≠ 0xFFFF#16)

/-- R174, and R142's count check: in a session a PFRAME of length 0 and a DPUSH of more than 480 raise -2 and are
no-ops. -/
def Obligations.BadCountsRaiseInput : Prop :=
  ∀ (s : State) (n : Nat), s.valid = true →
    exec (.pframe 0) s = .next { s with res := { s.res with result := 0xFFFE#16 } } ∧
    (480 < n → exec (.dpush n) s = .next { s with res := { s.res with result := 0xFFFE#16 } })

/-- R243: which code a command reports: the first check that fails, in the rule's order, and 0 when none does. -/
def Obligations.ResultCodeFollowsThePrecedence : Prop :=
  ∀ (s t : State) (rest : List HostAction) (w : Word), s.host = .write 0x000 4 w :: rest → step s = .next t →
    t.res.result =
      match decode w with
      | .illegal _ => 0xFFFC#16
      | .ok .reset => if s.valid then 0x0000#16 else 0xFFFF#16
      | .ok (.pframe n) => if s.valid = false then 0xFFFF#16 else if n = 0 then 0xFFFE#16 else 0x0000#16
      | .ok (.dpush n) => if s.valid = false then 0xFFFF#16 else if 480 < n then 0xFFFE#16 else 0x0000#16
      | .ok (.create fe) =>
        if s.allocCanFail ∧ Config.allocFails s.draws.alloc fe then 0xFFFD#16 else 0x0000#16
      | .ok .destroy => 0x0000#16

/-- R249: the complete list of host-protocol faults: a step faults exactly in these cases, and refuses nothing. Which
item an access falls under that is illegal and made while busy is the model's deduction: the bus error (log 9). -/
def Obligations.FaultsAreExactlyTheListed : Prop :=
  ∀ s : State,
    (∀ r, step s ≠ .refused r) ∧
    (∀ f, step s = .fault f ↔
      ∃ a rest, s.host = a :: rest ∧
        ((f = .hostProtocol .busError ∧
            ((∃ off size, a = .read off size ∧ legalAccess off size = false) ∨
             (∃ off size v, a = .write off size v ∧ legalAccess off size = false))) ∨
         (f = .hostProtocol .accessWhileBusy ∧ s.busy = true ∧
            ∃ off size v, a = .write off size v ∧ legalAccess off size = true ∧
              (off ≤ 0x003 ∨ (0x008 ≤ off ∧ off ≤ 0x00B) ∨ (0x400 ≤ off ∧ off ≤ 0x7BF) ∨
                (0x1000 ≤ off ∧ off ≤ 0x177F))) ∨
         (f = .hostProtocol .unwrittenInput ∧ s.busy = false ∧ s.valid = true ∧
            ∃ w, a = .write 0x000 4 w ∧
              ((∃ n, decode w = .ok (.pframe n) ∧ n ≠ 0 ∧ ∃ i < min n 480, s.inbuf? i = none) ∨
               (∃ n, decode w = .ok (.dpush n) ∧ n ≤ 480 ∧ ∃ i < n, s.decin? i = none)))))

/-! ### The Decimator (40_decimator.md) -/

/-- R132, R133: one sample: it enters `hist` at `widx`, `widx` and `phase` advance, and an output is emitted
exactly when `phase` reaches 6, over the window of the 96 newest samples, oldest first. -/
def Obligations.DecStepInsertsAdvancesAndEmits : Prop :=
  ∀ (coef : Vector F32 96) (n : Nat) (d : DecimatorState) (x : F32),
    let r := decStep coef n d x
    (∀ i (h : i < 96), r.1.hist[i] = if i = d.widx.val then x else d.hist[i]) ∧
    r.1.widx.val = (d.widx.val + 1) % 96 ∧
    r.1.phase.val = (if d.phase.val + 1 = 6 then 0 else d.phase.val + 1) ∧
    (d.phase.val + 1 ≠ 6 → r.2 = none) ∧
    (d.phase.val + 1 = 6 → ∃ w : List F32, r.2 = some (firDot coef n w) ∧ w.length = 96 ∧
      ∀ k (h : k < 96), w[k]? = some (r.1.hist[(r.1.widx.val + k) % 96]'(Nat.mod_lt _ (by omega))))

/-- R134: the inner product adds the 96 products in ascending k from +0.0, each product and each sum rounded on its
own; and if every product is +0.0 or -0.0, the result is +0.0. -/
def Obligations.FirDotSumsInAscendingOrder : Prop :=
  ∀ (coef : Vector F32 96) (n : Nat) (w : Vector F32 96),
    firDot coef n w.toList =
      Nat.fold 96 (fun k h a => fadd (nanResult n (2 * k + 1)) a (fmul (nanResult n (2 * k)) coef[k] w[k])) 0x00000000#32 ∧
    ((∀ k (h : k < 96), fmul (nanResult n (2 * k)) coef[k] w[k] = 0x00000000#32 ∨
        fmul (nanResult n (2 * k)) coef[k] w[k] = 0x80000000#32) →
      firDot coef n w.toList = 0x00000000#32)

/-- R13, R134: `fadd` is addition rounded once, to nearest, ties to even: a finite result is as near to the exact sum
as any finite value, and nearer than any other or even; and the sum overflows to an infinity of its sign exactly
from half an ulp beyond the largest finite value on. Values are in units of 2^-149. The rounding is IEEE 754's, as
log 18 takes it. -/
def Obligations.FaddRoundsToNearestEven : Prop :=
  ∀ nan a b : F32, F32.isFinite a = true → F32.isFinite b = true →
    let exact := F32.value a + F32.value b
    let r := fadd nan a b
    F32.isNaN r = false ∧
    (F32.isInf r = true ↔ (2 ^ 25 - 1) * 2 ^ 252 ≤ exact.natAbs) ∧
    (F32.isInf r = true → (F32.sign r = true ↔ exact < 0)) ∧
    (F32.isFinite r = true → ∀ c : F32, F32.isFinite c = true →
      (F32.value r - exact).natAbs ≤ (F32.value c - exact).natAbs ∧
      ((F32.value r - exact).natAbs = (F32.value c - exact).natAbs → F32.value c ≠ F32.value r →
        r.getLsbD 0 = false))

/-- R13, R134: `fmul` is multiplication rounded once, to nearest, ties to even. Exact products are in units of
2^-298. The rounding is IEEE 754's, as log 18 takes it. -/
def Obligations.FmulRoundsToNearestEven : Prop :=
  ∀ nan a b : F32, F32.isFinite a = true → F32.isFinite b = true →
    let exact := F32.value a * F32.value b
    let r := fmul nan a b
    F32.isNaN r = false ∧
    F32.sign r = (F32.sign a != F32.sign b) ∧
    (F32.isInf r = true ↔ (2 ^ 25 - 1) * 2 ^ 401 ≤ exact.natAbs) ∧
    (F32.isFinite r = true → ∀ c : F32, F32.isFinite c = true →
      (F32.value r * 2 ^ 149 - exact).natAbs ≤ (F32.value c * 2 ^ 149 - exact).natAbs ∧
      ((F32.value r * 2 ^ 149 - exact).natAbs = (F32.value c * 2 ^ 149 - exact).natAbs →
        F32.value c ≠ F32.value r → r.getLsbD 0 = false))

/-- R134: NaNs, infinities and signed zeros: which operations give a NaN, that the NaN is the draw, what infinities
give, the sign of every sum of exact value 0 (log 18), and that the NaN draws range over exactly the NaN patterns ("any f32 whose exponent bits
are all 1 and whose fraction is non-zero"). -/
def Obligations.SpecialValuesFollowIeee : Prop :=
  (∀ x : F32, (x.extractLsb' 23 8 = 0xFF#8 ∧ x.extractLsb' 0 23 ≠ 0#23) ↔ ∃ d, nanPattern d = x) ∧
  ∀ nan a b : F32,
    (F32.isNaN a = true ∨ F32.isNaN b = true → fadd nan a b = nan ∧ fmul nan a b = nan) ∧
    (F32.isInf a = true → F32.isInf b = true → F32.sign a ≠ F32.sign b → fadd nan a b = nan) ∧
    (F32.isInf a = true → (F32.isFinite b = true ∨ F32.isInf b = true ∧ F32.sign b = F32.sign a) →
      fadd nan a b = a ∧ fadd nan b a = a) ∧
    (F32.isInf a = true → (b = 0x00000000#32 ∨ b = 0x80000000#32) → fmul nan a b = nan ∧ fmul nan b a = nan) ∧
    (F32.isInf a = true → F32.isNaN b = false → b ≠ 0x00000000#32 → b ≠ 0x80000000#32 →
      F32.isInf (fmul nan a b) = true ∧ F32.sign (fmul nan a b) = (F32.sign a != F32.sign b) ∧
      fmul nan b a = fmul nan a b) ∧
    (F32.isFinite a = true → F32.isFinite b = true → F32.value a + F32.value b = 0 →
      ¬ (a = 0x80000000#32 ∧ b = 0x80000000#32) → fadd nan a b = 0x00000000#32) ∧
    fadd nan 0x80000000#32 0x80000000#32 = 0x80000000#32

/-- R136: how many outputs a DecProcess emits, and where it leaves `phase` and `widx`. The bounds of R137, floor(N/6)
and ceil(N/6), go with it (log 22 says how R137 is read). -/
def Obligations.DecProcessCounts : Prop :=
  ∀ (coef : Vector F32 96) (n : Nat) (d : DecimatorState) (xs : List F32),
    let r := decProcess coef d n xs
    r.out.length = (d.phase.val + xs.length) / 6 ∧
    r.dec.phase.val = (d.phase.val + xs.length) % 6 ∧
    r.dec.widx.val = (d.widx.val + xs.length) % 96 ∧
    xs.length / 6 ≤ r.out.length ∧ r.out.length ≤ (xs.length + 5) / 6

/-- R138: after any run of samples since the last DecClear, the ring holds exactly the last 96 of them in time
order (+0.0 before the first), and `phase` and `widx` are their count mod 6 and mod 96. -/
def Obligations.HistoryHoldsTheLastSamples : Prop :=
  ∀ (coef : Vector F32 96) (n : Nat) (xs : List F32),
    let r := decProcess coef { hist := Vector.replicate 96 0#32, widx := 0, phase := 0 } n xs
    (∀ k (h : k < 96),
      some (r.dec.hist[(r.dec.widx.val + k) % 96]'(Nat.mod_lt _ (by omega))) =
        (List.replicate 96 0x00000000#32 ++ xs)[xs.length + k]?) ∧
    r.dec.phase.val = xs.length % 6 ∧ r.dec.widx.val = xs.length % 96

/-- R139: running a and then b is running a ++ b, bit for bit; so every split of a sample stream into calls gives the
same outputs and leaves the same state. -/
def Obligations.CallBoundariesDoNotShow : Prop :=
  (∀ (coef : Vector F32 96) (d : DecimatorState) (n : Nat) (a b : List F32),
    let ra := decProcess coef d n a
    let rb := decProcess coef ra.dec ra.emissions b
    decProcess coef d n (a ++ b) = { dec := rb.dec, emissions := rb.emissions, out := ra.out ++ rb.out }) ∧
  (∀ (coef : Vector F32 96) (d : DecimatorState) (n : Nat) (calls : List (List F32)),
    let run := calls.foldl (fun (r : DecRun) xs =>
      let r' := decProcess coef r.dec r.emissions xs
      { dec := r'.dec, emissions := r'.emissions, out := r.out ++ r'.out })
      { dec := d, emissions := n, out := [] }
    run = decProcess coef d n calls.flatten)

/-- R141: the j-th output since the last DecClear is the inner product over samples 6j-95 to 6j. Here outputs are
numbered from 0, and the stream is preceded by 96 values +0.0. -/
def Obligations.OutputsAreTheClosedForm : Prop :=
  ∀ (coef : Vector F32 96) (n : Nat) (xs : List F32),
    let r := decProcess coef { hist := Vector.replicate 96 0#32, widx := 0, phase := 0 } n xs
    r.out = (List.range (xs.length / 6)).map fun j =>
      firDot coef (n + j) (((List.replicate 96 0x00000000#32 ++ xs).drop (6 * (j + 1))).take 96)

/-! ### DPUSH (40_decimator.md R142) -/

/-- R142: DPUSH: -1 without a session, -2 beyond 480 samples, a host-protocol fault on an entry never written. An
accepted DPUSH completes: the Decimator's `process` on `decin[0..N-1]`, its outputs to `decout`, their number to
`dcount`, 0 to `result`, and nothing else (the emission counter is the model's own, log 3). -/
def Obligations.DpushRunsTheDecimator : Prop :=
  ∀ (s : State) (n : Nat),
    (s.valid = false → exec (.dpush n) s = .next { s with res := { s.res with result := 0xFFFF#16 } }) ∧
    (s.valid = true → 480 < n → exec (.dpush n) s = .next { s with res := { s.res with result := 0xFFFE#16 } }) ∧
    (s.valid = true → n ≤ 480 → (∃ i < n, s.decin? i = none) →
      exec (.dpush n) s = .fault (.hostProtocol .unwrittenInput)) ∧
    (∀ xs : List F32, s.valid = true → n ≤ 480 → xs.length = n → (∀ i (h : i < xs.length), s.decin? i = some xs[i]) →
      let r := decProcess s.coef s.dec s.draws.nan xs
      exec (.dpush n) s = .next { s with
        dec := r.dec
        draws := { s.draws with nan := r.emissions }
        mem := s.mem.storeWords 0x1800 r.out
        dcount := r.out.length
        res := { s.res with result := 0x0000#16 } })

/-- R142: the frame of DPUSH: `decout[0..M-1]` hold the outputs, every other byte of every buffer reads as before, M
is at most 80, and the Packer, the session, the capacities, the ROM and the flags stay. -/
def Obligations.DpushWritesOnlyItsOutputs : Prop :=
  ∀ (s t : State) (n : Nat), exec (.dpush n) s = .next t →
    (t.pack = s.pack ∧ t.valid = s.valid ∧ t.fe = s.fe ∧ t.ccap = s.ccap ∧ t.dcap = s.dcap ∧ t.coef = s.coef ∧
      t.busy = s.busy ∧ t.cmdreg = s.cmdreg ∧ t.allocCanFail = s.allocCanFail ∧ t.host = s.host ∧
      t.rdata = s.rdata ∧ t.res = { s.res with result := t.res.result }) ∧
    (t.res.result ≠ 0x0000#16 → t.dec = s.dec ∧ t.dcount = s.dcount ∧ t.mem = s.mem ∧ t.draws = s.draws) ∧
    (t.res.result = 0x0000#16 → ∃ xs : List F32, xs.length = n ∧
      (∀ i (h : i < xs.length), s.decin? i = some xs[i]) ∧
      let out := (decProcess s.coef s.dec s.draws.nan xs).out
      t.dcount = out.length ∧ out.length ≤ 80 ∧
      (∀ i (h : i < out.length), t.mem.word? (0x1800 + 4 * i) = some out[i]) ∧
      (∀ a, a < 0x1800 ∨ 0x1800 + 4 * out.length ≤ a → t.mem.byte? a = s.mem.byte? a))

/-- R278: a PFRAME or DPUSH that would consume an entry never written is a host-protocol fault; the padded entries
are not read, so what they hold does not matter. -/
def Obligations.UnwrittenInputsFault : Prop :=
  (∀ (s : State) (n : Nat), s.valid = true →
    (1 ≤ n → (∃ i < min n 480, s.inbuf? i = none) →
      exec (.pframe n) s = .fault (.hostProtocol .unwrittenInput)) ∧
    (n ≤ 480 → (∃ i < n, s.decin? i = none) → exec (.dpush n) s = .fault (.hostProtocol .unwrittenInput))) ∧
  (∀ (s : State) (n : Nat), (∀ i < min n 480, (s.inbuf? i).isSome = true) →
    ∃ t, exec (.pframe n) s = .next t)

/-! ### PFRAME (41_frame_packer.md) -/

/-- R171: `i2f(v)` is the finite binary32 value whose value is the integer exactly (in units of 2^-149), and +0.0
for 0. -/
def Obligations.IntToFloatIsExact : Prop :=
  ∀ v : Half, F32.isFinite (i2f v) = true ∧ F32.value (i2f v) = v.toInt * 2 ^ 149 ∧ (v = 0#16 → i2f v = 0x00000000#32)

/-- R172: `f2s`: NaN gives 0, values from 32767.0 up (and +infinity) give 32767, values from -32768.0 down (and
-infinity) give -32768, and every other value is rounded toward zero. -/
def Obligations.FloatToIntSaturatesAndTruncates : Prop :=
  ∀ x : F32,
    (F32.isNaN x = true → f2s x = 0#16) ∧
    (F32.isInf x = true → (f2s x).toInt = if F32.sign x then -32768 else 32767) ∧
    (F32.isFinite x = true →
      (32767 * 2 ^ 149 ≤ F32.value x → (f2s x).toInt = 32767) ∧
      (F32.value x ≤ -32768 * 2 ^ 149 → (f2s x).toInt = -32768) ∧
      (-32768 * 2 ^ 149 < F32.value x → F32.value x < 32767 * 2 ^ 149 →
        ((f2s x).toInt * 2 ^ 149).natAbs ≤ (F32.value x).natAbs ∧
        (F32.value x).natAbs < ((f2s x).toInt.natAbs + 1) * 2 ^ 149 ∧
        0 ≤ (f2s x).toInt * F32.value x))

/-- R173: the assembled frame: `i2f(inbuf[i])` for `i < min(L, 480)`, and +0.0 beyond. -/
def Obligations.FrameIsConvertedAndPadded : Prop :=
  ∀ (s : State) (n : Nat) (xs : List Half), s.frameInput n = some xs →
    ∀ i (h : i < 480),
      (i < min n 480 → ∃ v, s.inbuf? i = some v ∧ (assembleFrame xs)[i] = i2f v) ∧
      (min n 480 ≤ i → (assembleFrame xs)[i] = 0x00000000#32)

/-- R175: a PFRAME with L in 481..511 behaves exactly like `PFRAME 480`. -/
def Obligations.OverLengthFrameIsClamped : Prop :=
  ∀ (s : State) (n : Nat), 481 ≤ n → n ≤ 511 → exec (.pframe n) s = exec (.pframe 480) s

/-- R180: PackStep: as many new samples as fit are appended, the rest are dropped; at 160 the chunk is complete and
`filled` resets to 0; no other cell changes. -/
def Obligations.PackStepAppendsAndCompletes : Prop :=
  ∀ (p : FramePackerState) (out : List F32),
    let take := min out.length (160 - p.filled.val)
    let r := packStep p out
    (∀ j (h : j < take), r.1.acc[p.filled.val + j]'(by have := p.filled.isLt; omega) = out[j]'(by omega)) ∧
    (∀ i (h : i < 160), i < p.filled.val ∨ p.filled.val + take ≤ i → r.1.acc[i] = p.acc[i]) ∧
    (p.filled.val + take < 160 → r.1.filled.val = p.filled.val + take ∧ r.2 = none) ∧
    (p.filled.val + take = 160 → r.1.filled.val = 0 ∧ r.2 = some r.1.acc)

/-- R39, R180: no output reads a stale accumulator cell: two packers with the same valid cells complete the same
chunk from the same samples, and again have the same valid cells. -/
def Obligations.StaleCellsAreNeverEmitted : Prop :=
  ∀ (p q : FramePackerState) (out : List F32), q.filled = p.filled →
    (∀ i (h : i < 160), i < p.filled.val → q.acc[i] = p.acc[i]) →
    (packStep q out).2 = (packStep p out).2 ∧
    (packStep q out).1.filled = (packStep p out).1.filled ∧
    (∀ i (h : i < 160), i < (packStep p out).1.filled.val → (packStep q out).1.acc[i] = (packStep p out).1.acc[i])

/-- R182: an accepted PFRAME feeds 480 samples, and so gets exactly 80 outputs whatever phase it starts at, and leaves
`phase` and `widx` where they were. -/
def Obligations.FrameGivesEightyOutputs : Prop :=
  ∀ (coef : Vector F32 96) (d : DecimatorState) (n : Nat) (y : Vector F32 480),
    (decProcess coef d n y.toList).out.length = 80 ∧
    (decProcess coef d n y.toList).dec.phase = d.phase ∧ (decProcess coef d n y.toList).dec.widx = d.widx

/-- R181: PFRAME: -1 without a session, -2 for length 0, a host-protocol fault on an entry never written. An accepted
PFRAME completes, and this is all it leaves. `y` is the denoiser's answer when `fe` = 1 (exactly one call, delivered to
`denbuf` when `dcap >= 480`), the assembled frame when `fe` = 0; a completed chunk goes to `chunkbuf` when
`ccap >= 160`. The counters in `draws` are the model's own (log 3, 4). -/
def Obligations.PframeRunsOneFrame : Prop :=
  ∀ (s : State) (n : Nat),
    (s.valid = false → exec (.pframe n) s = .next { s with res := { s.res with result := 0xFFFF#16 } }) ∧
    (s.valid = true → n = 0 → exec (.pframe n) s = .next { s with res := { s.res with result := 0xFFFE#16 } }) ∧
    (s.valid = true → 1 ≤ n → (∃ i < min n 480, s.inbuf? i = none) →
      exec (.pframe n) s = .fault (.hostProtocol .unwrittenInput)) ∧
    (∀ xs : List Half, s.valid = true → 1 ≤ n → xs.length = min n 480 →
      (∀ i (h : i < xs.length), s.inbuf? i = some xs[i]) →
      let x := assembleFrame xs
      let y := if s.fe then Config.denoise s.draws.denoise x else x
      let r := decProcess s.coef s.dec s.draws.nan y.toList
      let completed := decide (160 ≤ s.pack.filled.val + 80)
      let m := if s.fe = true ∧ 480 ≤ s.dcap.toNat then s.mem.storeHalves 0x0C00 (y.toList.map f2s) else s.mem
      exec (.pframe n) s = .next { s with
        dec := r.dec
        pack := (packStep s.pack r.out).1
        mem :=
          if completed = true ∧ 160 ≤ s.ccap.toNat then
            m.storeHalves 0x0800 ((packStep s.pack r.out).1.acc.toList.map f2s)
          else m
        draws := { s.draws with
          nan := r.emissions, denoise := if s.fe then s.draws.denoise + 1 else s.draws.denoise }
        res := {
          result := 0x0000#16
          ready := s.res.ready || completed
          cskip := s.res.cskip || (completed && decide (s.ccap.toNat < 160))
          dwr := s.res.dwr || (s.fe && decide (480 ≤ s.dcap.toNat))
          dskip := s.res.dskip || (s.fe && decide (s.dcap.toNat < 480)) } })

/-- R178, R180: the buffers of an accepted PFRAME, entry by entry: `denbuf` is the `f2s` image of `y` when `fe` = 1 and
`dcap >= 480`, `chunkbuf` that of the completed chunk when there is one and `ccap >= 160`, and every other byte of
every buffer reads as before. -/
def Obligations.PframeWritesOnlyItsOutputs : Prop :=
  ∀ (s t : State) (n : Nat) (xs : List Half), s.valid = true → 1 ≤ n → s.frameInput n = some xs →
    exec (.pframe n) s = .next t →
    let y := if s.fe then Config.denoise s.draws.denoise (assembleFrame xs) else assembleFrame xs
    let out := (decProcess s.coef s.dec s.draws.nan y.toList).out
    let delivered := s.fe = true ∧ 480 ≤ s.dcap.toNat
    let emitted := 160 ≤ s.pack.filled.val + 80 ∧ 160 ≤ s.ccap.toNat
    (delivered → ∀ i (h : i < 480), t.mem.half? (0x0C00 + 2 * i) = some (f2s y[i])) ∧
    (emitted → ∀ i (h : i < 160), t.mem.half? (0x0800 + 2 * i) = some (f2s (packStep s.pack out).1.acc[i])) ∧
    (∀ a, (delivered → a < 0x0C00 ∨ 0x0C00 + 2 * 480 ≤ a) → (emitted → a < 0x0800 ∨ 0x0800 + 2 * 160 ≤ a) →
      t.mem.byte? a = s.mem.byte? a)

/-- R176: the denoiser is called exactly once by each PFRAME that passes its checks with `fe` = 1, and by nothing
else. -/
def Obligations.DenoiserIsCalledOncePerFrame : Prop :=
  ∀ (s t : State), step s = .next t →
    t.draws.denoise = s.draws.denoise + if s.nextAcceptsFrame && s.fe then 1 else 0

/-- R183: the chunk cadence. Over any run of host actions that starts with an empty accumulator and clears no
session, `filled` is 80 after an odd number of accepted PFRAMEs and 0 after an even number; and an accepted PFRAME
sets `ready` exactly when its number is even. -/
def Obligations.ChunkCadence : Prop :=
  ∀ (k : Nat) (s t : State), s.pack.filled.val = 0 → clearsWithin k s = false → runSteps k s = .next t →
    t.pack.filled.val = 80 * (framesAccepted k s % 2) ∧
    (t.nextAcceptsFrame = true → ∀ u, step t = .next u →
      (u.res.ready = true ↔ framesAccepted (k + 1) s % 2 = 0))

/-- R183: the chunk that the second of two accepted PFRAMEs completes is the `f2s` image of the first one's 80 outputs
followed by the second one's 80. Whatever happens between them leaves the packer as the first left it. -/
def Obligations.ChunkIsTheTwoFramesOutputs : Prop :=
  ∀ (s t s' t' : State) (n n' : Nat) (xs xs' : List Half),
    s.pack.filled.val = 0 → s.valid = true → 1 ≤ n → s.frameInput n = some xs → exec (.pframe n) s = .next t →
    s'.pack = t.pack → s'.valid = true → 1 ≤ n' → s'.frameInput n' = some xs' → 160 ≤ s'.ccap.toNat →
    exec (.pframe n') s' = .next t' →
    let y := if s.fe then Config.denoise s.draws.denoise (assembleFrame xs) else assembleFrame xs
    let y' := if s'.fe then Config.denoise s'.draws.denoise (assembleFrame xs') else assembleFrame xs'
    let chunk := (decProcess s.coef s.dec s.draws.nan y.toList).out ++
      (decProcess s'.coef s'.dec s'.draws.nan y'.toList).out
    chunk.length = 160 ∧ ∀ i < 160, t'.mem.half? (0x0800 + 2 * i) = (chunk[i]?).map f2s

/-- R244: an output buffer that is too small skips that output only: the buffer is not written, the flag is set,
`result` is 0, and the Decimator and the Packer move on exactly as if the output had been delivered. -/
def Obligations.SkippedOutputsDoNotDisturb : Prop :=
  ∀ (s t : State) (n : Nat) (xs : List Half), s.valid = true → 1 ≤ n → s.frameInput n = some xs →
    exec (.pframe n) s = .next t →
    t.res.result = 0x0000#16 ∧
    (80 ≤ s.pack.filled.val → s.ccap.toNat < 160 → t.res.cskip = true ∧ t.res.ready = true ∧
      ∀ i < 160, t.mem.half? (0x0800 + 2 * i) = s.mem.half? (0x0800 + 2 * i)) ∧
    (s.fe = true → s.dcap.toNat < 480 → t.res.dskip = true ∧
      ∀ i < 480, t.mem.half? (0x0C00 + 2 * i) = s.mem.half? (0x0C00 + 2 * i)) ∧
    (∀ t', exec (.pframe n) { s with ccap := 160#8, dcap := 480#9 } = .next t' →
      t'.dec = t.dec ∧ t'.pack = t.pack ∧ t'.draws = t.draws ∧ t'.res.ready = t.res.ready)

/-- R186: a short PFRAME has the same effect on all state as PFRAME 480 with the rest of `inbuf` set to 0, and it
neither reads nor writes that rest. -/
def Obligations.ShortFrameEqualsZeroPaddedFrame : Prop :=
  ∀ (s z : State) (n : Nat), 1 ≤ n → n < 480 → z = { s with mem := z.mem } →
    (∀ i < 480, n ≤ i → z.inbuf? i = some 0#16) →
    (∀ a, a < 0x0400 + 2 * n ∨ 0x0400 + 2 * 480 ≤ a → z.mem.byte? a = s.mem.byte? a) →
    ∀ t, exec (.pframe n) s = .next t → ∃ t', exec (.pframe 480) z = .next t' ∧
      t' = { t with mem := t'.mem } ∧
      (∀ a, a < 0x0400 + 2 * n ∨ 0x0400 + 2 * 480 ≤ a → t'.mem.byte? a = t.mem.byte? a) ∧
      (∀ a, 0x0400 + 2 * n ≤ a → a < 0x0400 + 2 * 480 →
        t.mem.byte? a = s.mem.byte? a ∧ t'.mem.byte? a = z.mem.byte? a)

/-! ### Host accesses (20_memory.md, 10_state.md section 7) -/

/-- R77: the legal accesses, in offsets: 32-bit aligned anywhere in the window, 16-bit aligned in the i16 regions and
the reserved ranges. Any other access is a bus error, with no data and no state change. That it is one while `busy` = 1
too, where R81 speaks as well, is the model's deduction (log 9). -/
def Obligations.IllegalAccessesAreBusErrors : Prop :=
  ∀ (s : State) (rest : List HostAction) (off size : Nat) (v : Word),
    let legal := (size = 4 ∧ off % 4 = 0 ∧ off ≤ 0x3FFC) ∨
      (size = 2 ∧ off % 2 = 0 ∧
        ((0x001C ≤ off ∧ off ≤ 0x0FFE) ∨ (0x1780 ≤ off ∧ off ≤ 0x17FE) ∨ (0x1940 ≤ off ∧ off ≤ 0x1FFE) ∨
         (0x2180 ≤ off ∧ off ≤ 0x23FE) ∨ (0x2580 ≤ off ∧ off ≤ 0x27FE) ∨ (0x2A80 ≤ off ∧ off ≤ 0x3FFE)))
    (step { s with host := .read off size :: rest } = .fault (.hostProtocol .busError) ↔ ¬ legal) ∧
    (step { s with host := .write off size v :: rest } = .fault (.hostProtocol .busError) ↔ ¬ legal)

/-- R78: a write to a read-only or reserved location changes no state and raises no error; a read of a reserved location
returns 0; a write to OUTCAP writes its two fields and ignores the other bits. -/
def Obligations.ReadOnlyAndReservedLocations : Prop :=
  ∀ (s : State) (rest : List HostAction) (off size : Nat) (v : Word), legalAccess off size = true →
    ((regionAt off).any Region.hostWritable = false →
      step { s with host := .write off size v :: rest } = .next { s with host := rest }) ∧
    (regionAt off = some .reserved → s.busy = false →
      step { s with host := .read off size :: rest } =
        .next { s with host := rest, rdata := some { size := size, value := 0#32 } }) ∧
    (s.busy = false → step { s with host := .write 0x008 4 v :: rest } =
      .next { s with host := rest, ccap := v.extractLsb' 0 8, dcap := v.extractLsb' 16 9 })

/-- R74: mixed-width access to the i16 regions. `e` is what a 16-bit read of an element returns. -/
def Obligations.MixedWidthHalfAccess : Prop :=
  (∀ (s : State) (b j : Nat), (b = 0x0400 ∧ j < 240) ∨ (b = 0x0800 ∧ j < 80) ∨ (b = 0x0C00 ∧ j < 240) →
    let e := fun i => (s.readValue (b + 2 * i) 2).setWidth 16
    s.readValue (b + 4 * j) 4 = e (2 * j + 1) ++ e (2 * j)) ∧
  (∀ (s : State) (i : Nat) (v : Half), i < 480 →
    (s.hostStore (0x0400 + 2 * i) 2 (v.setWidth 32)).inbuf? i = some v ∧
    (∀ k, k ≠ i → (s.hostStore (0x0400 + 2 * i) 2 (v.setWidth 32)).inbuf? k = s.inbuf? k)) ∧
  (∀ (s : State) (b i : Nat) (v : Half), (b = 0x0400 ∧ i < 480) ∨ (b = 0x0800 ∧ i < 160) ∨ (b = 0x0C00 ∧ i < 480) →
    s.mem.half? (b + 2 * i) = some v → s.readValue (b + 2 * i) 2 = v.setWidth 32) ∧
  (∀ (s : State) (j : Nat) (v : Word), j < 240 →
    (s.hostStore (0x0400 + 4 * j) 4 v).inbuf? (2 * j) = some (v.extractLsb' 0 16) ∧
    (s.hostStore (0x0400 + 4 * j) 4 v).inbuf? (2 * j + 1) = some (v.extractLsb' 16 16) ∧
    (∀ k, k ≠ 2 * j → k ≠ 2 * j + 1 → (s.hostStore (0x0400 + 4 * j) 4 v).inbuf? k = s.inbuf? k))

/-- R75: the f32 regions take 32-bit accesses only, and pass the pattern unchanged: what a read of each returns, and
what a write to DEC_IN stores. -/
def Obligations.FloatRegionsPassPatterns : Prop :=
  ∀ (s : State),
    (∀ off, (0x1000 ≤ off ∧ off ≤ 0x177F) ∨ (0x1800 ≤ off ∧ off ≤ 0x193F) ∨ (0x2000 ≤ off ∧ off ≤ 0x217F) ∨
      (0x2400 ≤ off ∧ off ≤ 0x257F) ∨ (0x2800 ≤ off ∧ off ≤ 0x2A7F) → ∀ size, size ≠ 4 →
      legalAccess off size = false) ∧
    (∀ i (h : i < 96), s.readValue (0x2000 + 4 * i) 4 = s.coef[i] ∧ s.readValue (0x2400 + 4 * i) 4 = s.dec.hist[i]) ∧
    (∀ i (h : i < 160), s.readValue (0x2800 + 4 * i) 4 = s.pack.acc[i]) ∧
    (∀ i x, i < 480 → s.decin? i = some x → s.readValue (0x1000 + 4 * i) 4 = x) ∧
    (∀ i x, i < 80 → s.mem.word? (0x1800 + 4 * i) = some x → s.readValue (0x1800 + 4 * i) 4 = x) ∧
    (∀ i x, i < 480 → (s.hostStore (0x1000 + 4 * i) 4 x).decin? i = some x ∧
      ∀ k, k ≠ i → (s.hostStore (0x1000 + 4 * i) 4 x).decin? k = s.decin? k)

/-- R79: reads have no side effect on the core; writes other than to CMD store data only, so the same write again has no
further effect; a write to CMD starts a command, and the same word again starts it again. -/
def Obligations.OnlyCommandWritesHaveSideEffects : Prop :=
  (∀ (s t : State) (rest : List HostAction) (off size : Nat), s.busy = false →
    step { s with host := .read off size :: rest } = .next t → t = { s with host := rest, rdata := t.rdata }) ∧
  (∀ (s t : State) (rest : List HostAction) (off size : Nat) (v : Word), 0x004 ≤ off →
    step { s with host := .write off size v :: .write off size v :: rest } = .next t →
    step t = .next { t with host := rest } ∧
    t = { s with host := .write off size v :: rest, ccap := t.ccap, dcap := t.dcap, mem := t.mem }) ∧
  (∀ (s t : State) (rest : List HostAction) (w : Word), s.busy = false →
    step { s with host := .write 0x000 4 w :: .write 0x000 4 w :: rest } = .next t →
    runCommand w { s with host := .write 0x000 4 w :: rest } = .next t ∧
    step t = runCommand w { t with host := rest })

/-- R81: accesses while `busy` = 1: a write to CMD, OUTCAP, IN_BUF or DEC_IN is a fault, a read returns any value of
its width, and STATUS shows BUSY = 1. -/
def Obligations.AccessWhileBusy : Prop :=
  ∀ (s : State) (rest : List HostAction) (off size : Nat) (v : Word), s.busy = true → legalAccess off size = true →
    (off ≤ 0x003 ∨ (0x008 ≤ off ∧ off ≤ 0x00B) ∨ (0x400 ≤ off ∧ off ≤ 0x7BF) ∨ (0x1000 ≤ off ∧ off ≤ 0x177F) →
      step { s with host := .write off size v :: rest } = .fault (.hostProtocol .accessWhileBusy)) ∧
    (∃ value : Word,
      step { s with host := .read off size :: rest } =
        .next { s with
          host := rest
          rdata := some { size := size, value := value }
          draws := { s.draws with busyRead := s.draws.busyRead + 1 } } ∧
      (off = 0x004 → value.getLsbD 6 = true) ∧ (size = 2 → value.extractLsb' 16 16 = 0#16))

/-- R51: what a read of STATUS returns, and its power-on value. -/
def Obligations.StatusShowsTheResult : Prop :=
  (∀ (s : State) (rest : List HostAction), s.busy = false →
    ∃ w : Word, step { s with host := .read 0x004 4 :: rest } =
        .next { s with host := rest, rdata := some { size := 4, value := w } } ∧
      w.getLsbD 0 = s.valid ∧ w.getLsbD 1 = s.fe ∧ w.getLsbD 2 = s.res.ready ∧ w.getLsbD 3 = s.res.cskip ∧
      w.getLsbD 4 = s.res.dwr ∧ w.getLsbD 5 = s.res.dskip ∧ w.getLsbD 6 = s.busy ∧
      w.extractLsb' 7 9 = 0#9 ∧ w.extractLsb' 16 16 = s.res.result) ∧
  State.reset.readValue 0x004 4 = 0x00000000#32

/-- R50, R52 to R56: what reads of the other registers return; and the link of `readValue` and `hostStore` with the step
(R80): a legal read while `busy` = 0 puts `readValue` into `rdata` (log 12) and changes nothing else, and a legal write
while `busy` = 0, other than to CMD, is `hostStore`. -/
def Obligations.RegistersShowTheState : Prop :=
  ∀ s : State,
    s.readValue 0x000 4 = s.cmdreg ∧
    ((s.readValue 0x008 4).extractLsb' 0 8 = s.ccap ∧ (s.readValue 0x008 4).extractLsb' 8 8 = 0#8 ∧
      (s.readValue 0x008 4).extractLsb' 16 9 = s.dcap ∧ (s.readValue 0x008 4).extractLsb' 25 7 = 0#7) ∧
    (s.dcount ≤ 80 → (s.readValue 0x00C 4).toNat = s.dcount) ∧
    (s.readValue 0x010 4).toNat = s.dec.phase.val ∧
    (s.readValue 0x014 4).toNat = s.dec.widx.val ∧
    (s.readValue 0x018 4).toNat = s.pack.filled.val ∧
    (∀ (rest : List HostAction) (off size : Nat), s.busy = false → legalAccess off size = true →
      step { s with host := .read off size :: rest } =
        .next { s with host := rest, rdata := some { size := size, value := s.readValue off size } }) ∧
    (∀ (rest : List HostAction) (off size : Nat) (v : Word), s.busy = false → legalAccess off size = true →
      0x004 ≤ off →
      step { s with host := .write off size v :: rest } = .next { s.hostStore off size v with host := rest })

/-- R83: a read returns the value of the last write to that location: after a legal write to IN_BUF or DEC_IN, a read of
the same width and offset returns what was written. -/
def Obligations.ReadReturnsTheLastWrite : Prop :=
  ∀ (s t u : State) (rest : List HostAction) (off size : Nat) (v : Word), s.busy = false →
    (0x400 ≤ off ∧ off ≤ 0x7BF) ∨ (0x1000 ≤ off ∧ off ≤ 0x177F) →
    s.host = .write off size v :: .read off size :: rest → step s = .next t → step t = .next u →
    u.rdata = some { size := size, value := if size = 2 then (v.setWidth 16).setWidth 32 else v }

/-- R57, R79, R256: the host's accesses other than a write to CMD change no session, Decimator, Packer, result or command
state: a read changes no byte of the buffers and no capacity, a write at most the bytes it covers, and those only in
IN_BUF and DEC_IN, and at offset 0x008 the capacities. With no host action the core is idle and keeps all state (that a
step is then the idle step is the model's, log 2). -/
def Obligations.HostAccessesLeaveCoreState : Prop :=
  (∀ s : State, s.host = [] → step s = .next s) ∧
  (∀ (s t : State) (a : HostAction) (rest : List HostAction), s.host = a :: rest → a ≠ .hardwareReset →
    (∀ w, a ≠ .write 0x000 4 w) → step s = .next t →
    t.valid = s.valid ∧ t.fe = s.fe ∧ t.dec = s.dec ∧ t.pack = s.pack ∧ t.res = s.res ∧ t.busy = s.busy ∧
    t.coef = s.coef ∧ t.dcount = s.dcount ∧ t.cmdreg = s.cmdreg ∧ t.allocCanFail = s.allocCanFail ∧ t.host = rest ∧
    t.draws = { s.draws with busyRead := t.draws.busyRead } ∧
    (∀ off size, a = .read off size → t.ccap = s.ccap ∧ t.dcap = s.dcap ∧ ∀ k, t.mem.byte? k = s.mem.byte? k) ∧
    (∀ off size v, a = .write off size v →
      (off ≠ 0x008 → t.ccap = s.ccap ∧ t.dcap = s.dcap) ∧ t.rdata = s.rdata ∧
      (∀ k, k < off ∨ off + size ≤ k → t.mem.byte? k = s.mem.byte? k) ∧
      (∀ k, (k < 0x0400 ∨ 0x07C0 ≤ k) → (k < 0x1000 ∨ 0x1780 ≤ k) → t.mem.byte? k = s.mem.byte? k)))

/-! ### Reset and invariants (10_state.md R59, 70_reset_and_hazards.md) -/

/-- R59: the value of every piece of the core's state after hardware reset, as `State.reset` holds it: the buffers are
unspecified (no byte written), the ROM holds `H`. -/
def Obligations.PowerOnValues : Prop :=
  let s := State.reset
  s.valid = false ∧ s.fe = false ∧ s.res.result = 0x0000#16 ∧
  s.res.ready = false ∧ s.res.cskip = false ∧ s.res.dwr = false ∧ s.res.dskip = false ∧ s.busy = false ∧
  (∀ i (h : i < 96), s.dec.hist[i] = 0x00000000#32) ∧ s.dec.widx = 0 ∧ s.dec.phase = 0 ∧
  (∀ i (h : i < 160), s.pack.acc[i] = 0x00000000#32) ∧ s.pack.filled = 0 ∧
  s.ccap = 160#8 ∧ s.dcap = 480#9 ∧ s.dcount = 0 ∧ s.cmdreg = 0x00000000#32 ∧ s.coef = Config.coefficients ∧
  ∀ a, s.mem.byte? a = none

/-- R270: a hardware reset sets every piece of the core's state to its power-on value from any state, `busy` or not.
The ROM keeps `H`, and the model's own fields stay, but that the power-on contents are drawn afresh (log 17). -/
def Obligations.HardwareResetRestoresPowerOn : Prop :=
  ∀ (s : State) (rest : List HostAction), ∃ t,
    step { s with host := .hardwareReset :: rest } = .next t ∧
    t = { State.reset with
      coef := s.coef
      host := rest
      rdata := s.rdata
      allocCanFail := s.allocCanFail
      draws := { s.draws with powerOn := s.draws.powerOn + 1 } } ∧
    (∀ off, (regionAt off).any Region.isRam = true → t.windowByte off = Config.powerOnByte (s.draws.powerOn + 1) off)

/-- R276: an output stays until the next command that delivers it afresh: `chunkbuf` changes only in a step that ends
with READY = 1 and CSKIP = 0, `denbuf` only with DWR = 1, `decout` and `dcount` only in a DPUSH with RESULT = 0 (a
hardware reset apart). -/
def Obligations.OutputsStayUntilDeliveredAfresh : Prop :=
  ∀ (s t : State), step s = .next t → (∀ rest, s.host ≠ .hardwareReset :: rest) →
    ((∃ i < 160, t.mem.half? (0x0800 + 2 * i) ≠ s.mem.half? (0x0800 + 2 * i)) →
      t.res.ready = true ∧ t.res.cskip = false ∧ s.nextAcceptsFrame = true) ∧
    ((∃ i < 480, t.mem.half? (0x0C00 + 2 * i) ≠ s.mem.half? (0x0C00 + 2 * i)) →
      t.res.dwr = true ∧ s.nextAcceptsFrame = true) ∧
    ((∃ i < 80, t.mem.word? (0x1800 + 4 * i) ≠ s.mem.word? (0x1800 + 4 * i)) ∨ t.dcount ≠ s.dcount →
      t.res.result = 0x0000#16 ∧ ∃ n, s.nextCommand? = some (.dpush n))

/-- The invariant of the states between host actions holds after hardware reset. -/
def Obligations.InvariantHoldsAtReset : Prop := State.reset.Inv ∧ Memory.wholeEntries State.reset.mem

/-- Every step keeps the invariant of the states between host actions. -/
def Obligations.EveryStepKeepsTheInvariant : Prop := ∀ s t : State, s.Inv → step s = .next t → t.Inv

/-- Every step keeps the entries of the RAM buffers whole, so "written since hardware reset" (R278) is a property of an
entry. -/
def Obligations.EveryStepKeepsEntriesWhole : Prop :=
  ∀ s t : State, s.mem.wholeEntries → step s = .next t → t.mem.wholeEntries
end

