-- ==== Sys2Proof/Laws/Memory.lean ====
section
/-! SUPPORT. Everything the RAM buffers' operations can do (20_memory.md R71 to R75): read after write, and the
canonical form kept. -/

namespace Sys2Proof.Machine

/-! ### Byte order -/

@[simp] theorem halfBytes_length (v : Half) : (halfBytes v).length = 2 := rfl

@[simp] theorem wordBytes_length (v : Word) : (wordBytes v).length = 4 := rfl

theorem halfOfBytes_halfBytes (v : Half) : halfOfBytes (v.extractLsb' 0 8) (v.extractLsb' 8 8) = v := by
  refine BitVec.eq_of_getLsbD_eq fun i hi => ?_
  unfold halfOfBytes
  rw [BitVec.getLsbD_append]
  by_cases h : i < 8
  · simp [h]
  · simp [h, show i - 8 < 8 by omega, show 8 + (i - 8) = i by omega]

theorem wordOfFour_wordBytes (v : Word) :
    wordOfFour (byteOfWord v 0) (byteOfWord v 1) (byteOfWord v 2) (byteOfWord v 3) = v := by
  refine BitVec.eq_of_getLsbD_eq fun i hi => ?_
  unfold wordOfFour byteOfWord
  rw [BitVec.getLsbD_append, BitVec.getLsbD_append, BitVec.getLsbD_append]
  by_cases h0 : i < 8
  · simp [h0]
  by_cases h1 : i < 16
  · simp [h0, show i - 8 < 8 by omega, show 8 + (i - 8) = i by omega]
  by_cases h2 : i < 24
  · simp [h0, show ¬ i - 8 < 8 by omega, show i - 8 - 8 < 8 by omega, show 16 + (i - 8 - 8) = i by omega]
  · simp [h0, show ¬ i - 8 < 8 by omega, show ¬ i - 8 - 8 < 8 by omega, show i - 8 - 8 - 8 < 8 by omega,
      show 24 + (i - 8 - 8 - 8) = i by omega]

theorem halves_length (vs : List Half) : (vs.flatMap halfBytes).length = 2 * vs.length := by
  induction vs with
  | nil => rfl
  | cons v vs ih => simp [List.flatMap_cons, ih]; omega

theorem words_length (vs : List Word) : (vs.flatMap wordBytes).length = 4 * vs.length := by
  induction vs with
  | nil => rfl
  | cons v vs ih => simp [List.flatMap_cons, ih]; omega

/-- Bytes `2*i` and `2*i + 1` of a list of i16 elements are element `i`'s. -/
theorem halves_getElem? (vs : List Half) (i : Nat) (k : Nat) (hk : k < 2) :
    (vs.flatMap halfBytes)[2 * i + k]? = vs[i]?.map fun v => v.extractLsb' (8 * k) 8 := by
  induction vs generalizing i with
  | nil => simp
  | cons v vs ih =>
    rw [List.flatMap_cons]
    cases i with
    | zero =>
      match k, hk with
      | 0, _ => rfl
      | 1, _ => rfl
    | succ i =>
      rw [List.getElem?_append_right (by simp; omega)]
      simp only [halfBytes_length, List.getElem?_cons_succ, ← ih i]
      congr 1
      omega

/-- Bytes `4*i` to `4*i + 3` of a list of 32-bit elements are element `i`'s. -/
theorem words_getElem? (vs : List Word) (i : Nat) (k : Nat) (hk : k < 4) :
    (vs.flatMap wordBytes)[4 * i + k]? = vs[i]?.map fun v => byteOfWord v k := by
  induction vs generalizing i with
  | nil => simp
  | cons v vs ih =>
    rw [List.flatMap_cons]
    cases i with
    | zero =>
      match k, hk with
      | 0, _ => rfl
      | 1, _ => rfl
      | 2, _ => rfl
      | 3, _ => rfl
    | succ i =>
      rw [List.getElem?_append_right (by simp; omega)]
      simp only [wordBytes_length, List.getElem?_cons_succ, ← ih i]
      congr 1
      omega

/-! ### Read after write -/

/-- A stored byte reads back at its offset, and every other offset reads as before. -/
theorem Memory.byte?_store (m : Memory) (a b : Nat) (v : Byte) :
    (m.store a v).byte? b = if b = a then some v else m.byte? b := by
  induction m with
  | nil => simp [Memory.store, Memory.byte?]
  | cons c rest ih =>
    obtain ⟨x, w⟩ := c
    unfold Memory.store
    split
    · simp [Memory.byte?]
    · split
      · subst x; by_cases hb : b = a <;> simp [Memory.byte?, hb]
      · simp only [Memory.byte?, ih]
        by_cases hb : b = a
        · subst hb; simp [*]
        · simp [hb]

/-- A stored run of bytes reads back at its offsets, and every other offset reads as before. -/
theorem Memory.byte?_storeBytes (vs : List Byte) (m : Memory) (a b : Nat) :
    (m.storeBytes a vs).byte? b = if a ≤ b ∧ b < a + vs.length then vs[b - a]? else m.byte? b := by
  induction vs generalizing m a with
  | nil => rw [Memory.storeBytes, if_neg (by simp)]
  | cons v vs ih =>
    simp only [Memory.storeBytes, ih, Memory.byte?_store, List.length_cons]
    by_cases h1 : b = a
    · subst h1; simp
    · by_cases h2 : a + 1 ≤ b ∧ b < a + 1 + vs.length
      · rw [if_pos h2, if_pos (by omega), show b - a = (b - (a + 1)) + 1 by omega, List.getElem?_cons_succ]
      · rw [if_neg h2, if_neg h1, if_neg (by omega)]

/-- Outside the stored i16 elements every byte reads as before. -/
theorem Memory.byte?_storeHalves_of_outside (m : Memory) (a b : Nat) (vs : List Half)
    (h : b < a ∨ a + 2 * vs.length ≤ b) : (m.storeHalves a vs).byte? b = m.byte? b := by
  rw [Memory.storeHalves, Memory.byte?_storeBytes, halves_length, if_neg (by omega)]

/-- Outside the stored 32-bit elements every byte reads as before. -/
theorem Memory.byte?_storeWords_of_outside (m : Memory) (a b : Nat) (vs : List Word)
    (h : b < a ∨ a + 4 * vs.length ≤ b) : (m.storeWords a vs).byte? b = m.byte? b := by
  rw [Memory.storeWords, Memory.byte?_storeBytes, words_length, if_neg (by omega)]

/-- Byte `k` of stored i16 element `i`. -/
theorem Memory.byte?_storeHalves (m : Memory) (a i k : Nat) (vs : List Half) (hi : i < vs.length) (hk : k < 2) :
    (m.storeHalves a vs).byte? (a + 2 * i + k) = some (vs[i].extractLsb' (8 * k) 8) := by
  rw [Memory.storeHalves, Memory.byte?_storeBytes, halves_length, if_pos (by omega),
    show a + 2 * i + k - a = 2 * i + k by omega, halves_getElem? vs i k hk]
  simp [hi]

/-- Byte `k` of stored 32-bit element `i`. -/
theorem Memory.byte?_storeWords (m : Memory) (a i k : Nat) (vs : List Word) (hi : i < vs.length) (hk : k < 4) :
    (m.storeWords a vs).byte? (a + 4 * i + k) = some (byteOfWord vs[i] k) := by
  rw [Memory.storeWords, Memory.byte?_storeBytes, words_length, if_pos (by omega),
    show a + 4 * i + k - a = 4 * i + k by omega, words_getElem? vs i k hk]
  simp [hi]

/-- A stored i16 element reads back. -/
theorem Memory.half?_storeHalves (m : Memory) (a i : Nat) (vs : List Half) (hi : i < vs.length) :
    (m.storeHalves a vs).half? (a + 2 * i) = some vs[i] := by
  have h0 := Memory.byte?_storeHalves m a i 0 vs hi (by omega)
  have h1 := Memory.byte?_storeHalves m a i 1 vs hi (by omega)
  simp only [Nat.add_zero] at h0
  simp only [Memory.half?, h0, h1]
  exact congrArg some (halfOfBytes_halfBytes _)

/-- A stored 32-bit element reads back. -/
theorem Memory.word?_storeWords (m : Memory) (a i : Nat) (vs : List Word) (hi : i < vs.length) :
    (m.storeWords a vs).word? (a + 4 * i) = some vs[i] := by
  have h0 := Memory.byte?_storeWords m a i 0 vs hi (by omega)
  have h1 := Memory.byte?_storeWords m a i 1 vs hi (by omega)
  have h2 := Memory.byte?_storeWords m a i 2 vs hi (by omega)
  have h3 := Memory.byte?_storeWords m a i 3 vs hi (by omega)
  simp only [Nat.add_zero] at h0
  simp only [Memory.word?, h0, h1, h2, h3]
  exact congrArg some (wordOfFour_wordBytes _)

/-- An i16 element depends on its two bytes only. -/
theorem Memory.half?_congr {m m' : Memory} {a : Nat} (h0 : m.byte? a = m'.byte? a)
    (h1 : m.byte? (a + 1) = m'.byte? (a + 1)) : m.half? a = m'.half? a := by
  simp [Memory.half?, h0, h1]

/-- A 32-bit element depends on its four bytes only. -/
theorem Memory.word?_congr {m m' : Memory} {a : Nat} (h : ∀ k < 4, m.byte? (a + k) = m'.byte? (a + k)) :
    m.word? a = m'.word? a := by
  have h0 := h 0 (by omega)
  simp only [Nat.add_zero] at h0
  simp [Memory.word?, h0, h 1 (by omega), h 2 (by omega), h 3 (by omega)]

/-! ### The canonical form -/

theorem Memory.wf_nil : Memory.wf [] := List.Pairwise.nil

/-- The offsets of a store are the old ones and the stored one. -/
theorem Memory.mem_store {m : Memory} {a : Nat} {v : Byte} {c : Host.Cell} (h : c ∈ m.store a v) :
    c = (a, v) ∨ c ∈ m := by
  induction m with
  | nil => simpa [Memory.store] using h
  | cons x rest ih =>
    obtain ⟨b, w⟩ := x
    unfold Memory.store at h
    split at h
    · simpa using h
    · split at h
      · rcases List.mem_cons.1 h with h | h
        · exact .inl h
        · exact .inr (List.mem_cons_of_mem _ h)
      · rcases List.mem_cons.1 h with h | h
        · exact .inr (h ▸ List.mem_cons_self)
        · exact (ih h).imp_right (List.mem_cons_of_mem _)

/-- A store keeps the canonical form. -/
theorem Memory.wf_store {m : Memory} (h : m.wf) (a : Nat) (v : Byte) : (m.store a v).wf := by
  induction m with
  | nil => simp [Memory.store, Memory.wf]
  | cons x rest ih =>
    obtain ⟨b, w⟩ := x
    have hb := List.pairwise_cons.1 h
    unfold Memory.store
    split
    · rename_i hab
      refine List.pairwise_cons.2 ⟨fun c hc => ?_, h⟩
      rcases List.mem_cons.1 hc with rfl | hc
      · exact hab
      · exact Nat.lt_trans hab (hb.1 c hc)
    · split
      · rename_i heq
        subst heq
        exact List.pairwise_cons.2 ⟨hb.1, hb.2⟩
      · refine List.pairwise_cons.2 ⟨fun c hc => ?_, ih hb.2⟩
        rcases Memory.mem_store hc with rfl | hc
        · show b < a; omega
        · exact hb.1 c hc

/-- A run of stores keeps the canonical form. -/
theorem Memory.wf_storeBytes (vs : List Byte) {m : Memory} (h : m.wf) (a : Nat) : (m.storeBytes a vs).wf := by
  induction vs generalizing m a with
  | nil => exact h
  | cons v vs ih => exact ih (Memory.wf_store h a v) (a + 1)

theorem Memory.wf_storeHalves {m : Memory} (h : m.wf) (a : Nat) (vs : List Half) : (m.storeHalves a vs).wf :=
  Memory.wf_storeBytes _ h a

theorem Memory.wf_storeWords {m : Memory} (h : m.wf) (a : Nat) (vs : List Word) : (m.storeWords a vs).wf :=
  Memory.wf_storeBytes _ h a

/-- A run of stores inside the RAM buffers lists RAM offsets only. -/
theorem Memory.inRam_storeBytes (vs : List Byte) {m : Memory} (h : m.inRam) (a : Nat)
    (ha : ∀ k < vs.length, (regionAt (a + k)).any Region.isRam = true) : (m.storeBytes a vs).inRam := by
  induction vs generalizing m a with
  | nil => exact h
  | cons v vs ih =>
    refine ih (fun c hc => ?_) (a + 1) (fun k hk => ?_)
    · rcases Memory.mem_store hc with rfl | hc
      · exact ha 0 (by simp)
      · exact h c hc
    · rw [Nat.add_assoc, Nat.add_comm 1]
      exact ha (k + 1) (by simpa using hk)

/-! ### Cells of an array -/

/-- The written cells hold the list's values in order, and every other cell is as before. -/
theorem writeCells_getElem {α : Type} {n : Nat} (xs : List α) (v : Vector α n) (i j : Nat) (hj : j < n) :
    (writeCells v i xs)[j] = if h : i ≤ j ∧ j < i + xs.length then xs[j - i]'(by omega) else v[j] := by
  induction xs generalizing v i with
  | nil => rw [writeCells, dif_neg (by simp)]
  | cons x xs ih =>
    simp only [writeCells, ih, List.length_cons]
    by_cases h1 : i + 1 ≤ j ∧ j < i + 1 + xs.length
    · rw [dif_pos h1, dif_pos (by omega)]
      have e : j - i = (j - (i + 1)) + 1 := by omega
      simp only [e, List.getElem_cons_succ]
    · rw [dif_neg h1]
      by_cases h2 : i = j
      · subst h2; simp
      · rw [dif_neg (by omega), Vector.getElem_setIfInBounds_ne (h := h2)]

end Sys2Proof.Machine
end

