-- ==== Sys2Proof/Laws/State.lean ====
section
/-! SUPPORT. The fields of every named update of the state, one lemma per field per update, each true by
`rfl`, so that no later proof unfolds a record update. -/

namespace Sys2Proof.Machine

/-! ### `State.raise` -/

@[simp] theorem State.raise_valid (s : State) (c : Half) : (s.raise c).valid = s.valid := rfl
@[simp] theorem State.raise_fe (s : State) (c : Half) : (s.raise c).fe = s.fe := rfl
@[simp] theorem State.raise_res (s : State) (c : Half) : (s.raise c).res = { s.res with result := c } := rfl
@[simp] theorem State.raise_busy (s : State) (c : Half) : (s.raise c).busy = s.busy := rfl
@[simp] theorem State.raise_dec (s : State) (c : Half) : (s.raise c).dec = s.dec := rfl
@[simp] theorem State.raise_pack (s : State) (c : Half) : (s.raise c).pack = s.pack := rfl
@[simp] theorem State.raise_coef (s : State) (c : Half) : (s.raise c).coef = s.coef := rfl
@[simp] theorem State.raise_ccap (s : State) (c : Half) : (s.raise c).ccap = s.ccap := rfl
@[simp] theorem State.raise_dcap (s : State) (c : Half) : (s.raise c).dcap = s.dcap := rfl
@[simp] theorem State.raise_dcount (s : State) (c : Half) : (s.raise c).dcount = s.dcount := rfl
@[simp] theorem State.raise_cmdreg (s : State) (c : Half) : (s.raise c).cmdreg = s.cmdreg := rfl
@[simp] theorem State.raise_mem (s : State) (c : Half) : (s.raise c).mem = s.mem := rfl
@[simp] theorem State.raise_allocCanFail (s : State) (c : Half) : (s.raise c).allocCanFail = s.allocCanFail := rfl
@[simp] theorem State.raise_draws (s : State) (c : Half) : (s.raise c).draws = s.draws := rfl
@[simp] theorem State.raise_host (s : State) (c : Half) : (s.raise c).host = s.host := rfl
@[simp] theorem State.raise_rdata (s : State) (c : Half) : (s.raise c).rdata = s.rdata := rfl

/-! ### `State.succeed` -/

@[simp] theorem State.succeed_valid (s : State) : s.succeed.valid = s.valid := rfl
@[simp] theorem State.succeed_fe (s : State) : s.succeed.fe = s.fe := rfl
@[simp] theorem State.succeed_res (s : State) : s.succeed.res = { s.res with result := 0x0000#16 } := rfl
@[simp] theorem State.succeed_busy (s : State) : s.succeed.busy = s.busy := rfl
@[simp] theorem State.succeed_dec (s : State) : s.succeed.dec = s.dec := rfl
@[simp] theorem State.succeed_pack (s : State) : s.succeed.pack = s.pack := rfl
@[simp] theorem State.succeed_coef (s : State) : s.succeed.coef = s.coef := rfl
@[simp] theorem State.succeed_ccap (s : State) : s.succeed.ccap = s.ccap := rfl
@[simp] theorem State.succeed_dcap (s : State) : s.succeed.dcap = s.dcap := rfl
@[simp] theorem State.succeed_dcount (s : State) : s.succeed.dcount = s.dcount := rfl
@[simp] theorem State.succeed_cmdreg (s : State) : s.succeed.cmdreg = s.cmdreg := rfl
@[simp] theorem State.succeed_mem (s : State) : s.succeed.mem = s.mem := rfl
@[simp] theorem State.succeed_allocCanFail (s : State) : s.succeed.allocCanFail = s.allocCanFail := rfl
@[simp] theorem State.succeed_draws (s : State) : s.succeed.draws = s.draws := rfl
@[simp] theorem State.succeed_host (s : State) : s.succeed.host = s.host := rfl
@[simp] theorem State.succeed_rdata (s : State) : s.succeed.rdata = s.rdata := rfl

/-! ### `State.clearFlags` -/

@[simp] theorem State.clearFlags_valid (s : State) : s.clearFlags.valid = s.valid := rfl
@[simp] theorem State.clearFlags_fe (s : State) : s.clearFlags.fe = s.fe := rfl
@[simp] theorem State.clearFlags_res (s : State) : s.clearFlags.res = { result := s.res.result, ready := false, cskip := false, dwr := false, dskip := false } := rfl
@[simp] theorem State.clearFlags_busy (s : State) : s.clearFlags.busy = s.busy := rfl
@[simp] theorem State.clearFlags_dec (s : State) : s.clearFlags.dec = s.dec := rfl
@[simp] theorem State.clearFlags_pack (s : State) : s.clearFlags.pack = s.pack := rfl
@[simp] theorem State.clearFlags_coef (s : State) : s.clearFlags.coef = s.coef := rfl
@[simp] theorem State.clearFlags_ccap (s : State) : s.clearFlags.ccap = s.ccap := rfl
@[simp] theorem State.clearFlags_dcap (s : State) : s.clearFlags.dcap = s.dcap := rfl
@[simp] theorem State.clearFlags_dcount (s : State) : s.clearFlags.dcount = s.dcount := rfl
@[simp] theorem State.clearFlags_cmdreg (s : State) : s.clearFlags.cmdreg = s.cmdreg := rfl
@[simp] theorem State.clearFlags_mem (s : State) : s.clearFlags.mem = s.mem := rfl
@[simp] theorem State.clearFlags_allocCanFail (s : State) : s.clearFlags.allocCanFail = s.allocCanFail := rfl
@[simp] theorem State.clearFlags_draws (s : State) : s.clearFlags.draws = s.draws := rfl
@[simp] theorem State.clearFlags_host (s : State) : s.clearFlags.host = s.host := rfl
@[simp] theorem State.clearFlags_rdata (s : State) : s.clearFlags.rdata = s.rdata := rfl

/-! ### `State.beginCommand` -/

@[simp] theorem State.beginCommand_valid (s : State) (w : Word) : (s.beginCommand w).valid = s.valid := rfl
@[simp] theorem State.beginCommand_fe (s : State) (w : Word) : (s.beginCommand w).fe = s.fe := rfl
@[simp] theorem State.beginCommand_res (s : State) (w : Word) : (s.beginCommand w).res = { result := s.res.result, ready := false, cskip := false, dwr := false, dskip := false } := rfl
@[simp] theorem State.beginCommand_busy (s : State) (w : Word) : (s.beginCommand w).busy = true := rfl
@[simp] theorem State.beginCommand_dec (s : State) (w : Word) : (s.beginCommand w).dec = s.dec := rfl
@[simp] theorem State.beginCommand_pack (s : State) (w : Word) : (s.beginCommand w).pack = s.pack := rfl
@[simp] theorem State.beginCommand_coef (s : State) (w : Word) : (s.beginCommand w).coef = s.coef := rfl
@[simp] theorem State.beginCommand_ccap (s : State) (w : Word) : (s.beginCommand w).ccap = s.ccap := rfl
@[simp] theorem State.beginCommand_dcap (s : State) (w : Word) : (s.beginCommand w).dcap = s.dcap := rfl
@[simp] theorem State.beginCommand_dcount (s : State) (w : Word) : (s.beginCommand w).dcount = s.dcount := rfl
@[simp] theorem State.beginCommand_cmdreg (s : State) (w : Word) : (s.beginCommand w).cmdreg = w := rfl
@[simp] theorem State.beginCommand_mem (s : State) (w : Word) : (s.beginCommand w).mem = s.mem := rfl
@[simp] theorem State.beginCommand_allocCanFail (s : State) (w : Word) : (s.beginCommand w).allocCanFail = s.allocCanFail := rfl
@[simp] theorem State.beginCommand_draws (s : State) (w : Word) : (s.beginCommand w).draws = s.draws := rfl
@[simp] theorem State.beginCommand_host (s : State) (w : Word) : (s.beginCommand w).host = s.host := rfl
@[simp] theorem State.beginCommand_rdata (s : State) (w : Word) : (s.beginCommand w).rdata = s.rdata := rfl

/-! ### `State.endCommand` -/

@[simp] theorem State.endCommand_valid (s : State) : s.endCommand.valid = s.valid := rfl
@[simp] theorem State.endCommand_fe (s : State) : s.endCommand.fe = s.fe := rfl
@[simp] theorem State.endCommand_res (s : State) : s.endCommand.res = s.res := rfl
@[simp] theorem State.endCommand_busy (s : State) : s.endCommand.busy = false := rfl
@[simp] theorem State.endCommand_dec (s : State) : s.endCommand.dec = s.dec := rfl
@[simp] theorem State.endCommand_pack (s : State) : s.endCommand.pack = s.pack := rfl
@[simp] theorem State.endCommand_coef (s : State) : s.endCommand.coef = s.coef := rfl
@[simp] theorem State.endCommand_ccap (s : State) : s.endCommand.ccap = s.ccap := rfl
@[simp] theorem State.endCommand_dcap (s : State) : s.endCommand.dcap = s.dcap := rfl
@[simp] theorem State.endCommand_dcount (s : State) : s.endCommand.dcount = s.dcount := rfl
@[simp] theorem State.endCommand_cmdreg (s : State) : s.endCommand.cmdreg = s.cmdreg := rfl
@[simp] theorem State.endCommand_mem (s : State) : s.endCommand.mem = s.mem := rfl
@[simp] theorem State.endCommand_allocCanFail (s : State) : s.endCommand.allocCanFail = s.allocCanFail := rfl
@[simp] theorem State.endCommand_draws (s : State) : s.endCommand.draws = s.draws := rfl
@[simp] theorem State.endCommand_host (s : State) : s.endCommand.host = s.host := rfl
@[simp] theorem State.endCommand_rdata (s : State) : s.endCommand.rdata = s.rdata := rfl

/-! ### `State.flagChunk` -/

@[simp] theorem State.flagChunk_valid (s : State) (b : Bool) : (s.flagChunk b).valid = s.valid := rfl
@[simp] theorem State.flagChunk_fe (s : State) (b : Bool) : (s.flagChunk b).fe = s.fe := rfl
@[simp] theorem State.flagChunk_res (s : State) (b : Bool) : (s.flagChunk b).res = { s.res with ready := true, cskip := s.res.cskip || b } := rfl
@[simp] theorem State.flagChunk_busy (s : State) (b : Bool) : (s.flagChunk b).busy = s.busy := rfl
@[simp] theorem State.flagChunk_dec (s : State) (b : Bool) : (s.flagChunk b).dec = s.dec := rfl
@[simp] theorem State.flagChunk_pack (s : State) (b : Bool) : (s.flagChunk b).pack = s.pack := rfl
@[simp] theorem State.flagChunk_coef (s : State) (b : Bool) : (s.flagChunk b).coef = s.coef := rfl
@[simp] theorem State.flagChunk_ccap (s : State) (b : Bool) : (s.flagChunk b).ccap = s.ccap := rfl
@[simp] theorem State.flagChunk_dcap (s : State) (b : Bool) : (s.flagChunk b).dcap = s.dcap := rfl
@[simp] theorem State.flagChunk_dcount (s : State) (b : Bool) : (s.flagChunk b).dcount = s.dcount := rfl
@[simp] theorem State.flagChunk_cmdreg (s : State) (b : Bool) : (s.flagChunk b).cmdreg = s.cmdreg := rfl
@[simp] theorem State.flagChunk_mem (s : State) (b : Bool) : (s.flagChunk b).mem = s.mem := rfl
@[simp] theorem State.flagChunk_allocCanFail (s : State) (b : Bool) : (s.flagChunk b).allocCanFail = s.allocCanFail := rfl
@[simp] theorem State.flagChunk_draws (s : State) (b : Bool) : (s.flagChunk b).draws = s.draws := rfl
@[simp] theorem State.flagChunk_host (s : State) (b : Bool) : (s.flagChunk b).host = s.host := rfl
@[simp] theorem State.flagChunk_rdata (s : State) (b : Bool) : (s.flagChunk b).rdata = s.rdata := rfl

/-! ### `State.flagDenoised` -/

@[simp] theorem State.flagDenoised_valid (s : State) (b : Bool) : (s.flagDenoised b).valid = s.valid := rfl
@[simp] theorem State.flagDenoised_fe (s : State) (b : Bool) : (s.flagDenoised b).fe = s.fe := rfl
@[simp] theorem State.flagDenoised_res (s : State) (b : Bool) : (s.flagDenoised b).res = { s.res with dwr := s.res.dwr || !b, dskip := s.res.dskip || b } := rfl
@[simp] theorem State.flagDenoised_busy (s : State) (b : Bool) : (s.flagDenoised b).busy = s.busy := rfl
@[simp] theorem State.flagDenoised_dec (s : State) (b : Bool) : (s.flagDenoised b).dec = s.dec := rfl
@[simp] theorem State.flagDenoised_pack (s : State) (b : Bool) : (s.flagDenoised b).pack = s.pack := rfl
@[simp] theorem State.flagDenoised_coef (s : State) (b : Bool) : (s.flagDenoised b).coef = s.coef := rfl
@[simp] theorem State.flagDenoised_ccap (s : State) (b : Bool) : (s.flagDenoised b).ccap = s.ccap := rfl
@[simp] theorem State.flagDenoised_dcap (s : State) (b : Bool) : (s.flagDenoised b).dcap = s.dcap := rfl
@[simp] theorem State.flagDenoised_dcount (s : State) (b : Bool) : (s.flagDenoised b).dcount = s.dcount := rfl
@[simp] theorem State.flagDenoised_cmdreg (s : State) (b : Bool) : (s.flagDenoised b).cmdreg = s.cmdreg := rfl
@[simp] theorem State.flagDenoised_mem (s : State) (b : Bool) : (s.flagDenoised b).mem = s.mem := rfl
@[simp] theorem State.flagDenoised_allocCanFail (s : State) (b : Bool) : (s.flagDenoised b).allocCanFail = s.allocCanFail := rfl
@[simp] theorem State.flagDenoised_draws (s : State) (b : Bool) : (s.flagDenoised b).draws = s.draws := rfl
@[simp] theorem State.flagDenoised_host (s : State) (b : Bool) : (s.flagDenoised b).host = s.host := rfl
@[simp] theorem State.flagDenoised_rdata (s : State) (b : Bool) : (s.flagDenoised b).rdata = s.rdata := rfl

/-! ### `State.writeOutcap` -/

@[simp] theorem State.writeOutcap_valid (s : State) (v : Word) : (s.writeOutcap v).valid = s.valid := rfl
@[simp] theorem State.writeOutcap_fe (s : State) (v : Word) : (s.writeOutcap v).fe = s.fe := rfl
@[simp] theorem State.writeOutcap_res (s : State) (v : Word) : (s.writeOutcap v).res = s.res := rfl
@[simp] theorem State.writeOutcap_busy (s : State) (v : Word) : (s.writeOutcap v).busy = s.busy := rfl
@[simp] theorem State.writeOutcap_dec (s : State) (v : Word) : (s.writeOutcap v).dec = s.dec := rfl
@[simp] theorem State.writeOutcap_pack (s : State) (v : Word) : (s.writeOutcap v).pack = s.pack := rfl
@[simp] theorem State.writeOutcap_coef (s : State) (v : Word) : (s.writeOutcap v).coef = s.coef := rfl
@[simp] theorem State.writeOutcap_ccap (s : State) (v : Word) : (s.writeOutcap v).ccap = v.extractLsb' 0 8 := rfl
@[simp] theorem State.writeOutcap_dcap (s : State) (v : Word) : (s.writeOutcap v).dcap = v.extractLsb' 16 9 := rfl
@[simp] theorem State.writeOutcap_dcount (s : State) (v : Word) : (s.writeOutcap v).dcount = s.dcount := rfl
@[simp] theorem State.writeOutcap_cmdreg (s : State) (v : Word) : (s.writeOutcap v).cmdreg = s.cmdreg := rfl
@[simp] theorem State.writeOutcap_mem (s : State) (v : Word) : (s.writeOutcap v).mem = s.mem := rfl
@[simp] theorem State.writeOutcap_allocCanFail (s : State) (v : Word) : (s.writeOutcap v).allocCanFail = s.allocCanFail := rfl
@[simp] theorem State.writeOutcap_draws (s : State) (v : Word) : (s.writeOutcap v).draws = s.draws := rfl
@[simp] theorem State.writeOutcap_host (s : State) (v : Word) : (s.writeOutcap v).host = s.host := rfl
@[simp] theorem State.writeOutcap_rdata (s : State) (v : Word) : (s.writeOutcap v).rdata = s.rdata := rfl

/-! ### `State.decClear` -/

@[simp] theorem State.decClear_valid (s : State) : s.decClear.valid = s.valid := rfl
@[simp] theorem State.decClear_fe (s : State) : s.decClear.fe = s.fe := rfl
@[simp] theorem State.decClear_res (s : State) : s.decClear.res = s.res := rfl
@[simp] theorem State.decClear_busy (s : State) : s.decClear.busy = s.busy := rfl
@[simp] theorem State.decClear_dec (s : State) : s.decClear.dec = DecimatorState.cleared := rfl
@[simp] theorem State.decClear_pack (s : State) : s.decClear.pack = s.pack := rfl
@[simp] theorem State.decClear_coef (s : State) : s.decClear.coef = s.coef := rfl
@[simp] theorem State.decClear_ccap (s : State) : s.decClear.ccap = s.ccap := rfl
@[simp] theorem State.decClear_dcap (s : State) : s.decClear.dcap = s.dcap := rfl
@[simp] theorem State.decClear_dcount (s : State) : s.decClear.dcount = s.dcount := rfl
@[simp] theorem State.decClear_cmdreg (s : State) : s.decClear.cmdreg = s.cmdreg := rfl
@[simp] theorem State.decClear_mem (s : State) : s.decClear.mem = s.mem := rfl
@[simp] theorem State.decClear_allocCanFail (s : State) : s.decClear.allocCanFail = s.allocCanFail := rfl
@[simp] theorem State.decClear_draws (s : State) : s.decClear.draws = s.draws := rfl
@[simp] theorem State.decClear_host (s : State) : s.decClear.host = s.host := rfl
@[simp] theorem State.decClear_rdata (s : State) : s.decClear.rdata = s.rdata := rfl

/-! ### `State.packClear` -/

@[simp] theorem State.packClear_valid (s : State) : s.packClear.valid = s.valid := rfl
@[simp] theorem State.packClear_fe (s : State) : s.packClear.fe = s.fe := rfl
@[simp] theorem State.packClear_res (s : State) : s.packClear.res = s.res := rfl
@[simp] theorem State.packClear_busy (s : State) : s.packClear.busy = s.busy := rfl
@[simp] theorem State.packClear_dec (s : State) : s.packClear.dec = s.dec := rfl
@[simp] theorem State.packClear_pack (s : State) : s.packClear.pack = FramePackerState.cleared := rfl
@[simp] theorem State.packClear_coef (s : State) : s.packClear.coef = s.coef := rfl
@[simp] theorem State.packClear_ccap (s : State) : s.packClear.ccap = s.ccap := rfl
@[simp] theorem State.packClear_dcap (s : State) : s.packClear.dcap = s.dcap := rfl
@[simp] theorem State.packClear_dcount (s : State) : s.packClear.dcount = s.dcount := rfl
@[simp] theorem State.packClear_cmdreg (s : State) : s.packClear.cmdreg = s.cmdreg := rfl
@[simp] theorem State.packClear_mem (s : State) : s.packClear.mem = s.mem := rfl
@[simp] theorem State.packClear_allocCanFail (s : State) : s.packClear.allocCanFail = s.allocCanFail := rfl
@[simp] theorem State.packClear_draws (s : State) : s.packClear.draws = s.draws := rfl
@[simp] theorem State.packClear_host (s : State) : s.packClear.host = s.host := rfl
@[simp] theorem State.packClear_rdata (s : State) : s.packClear.rdata = s.rdata := rfl

/-! ### `State.clearSession` -/

@[simp] theorem State.clearSession_valid (s : State) : s.clearSession.valid = s.valid := rfl
@[simp] theorem State.clearSession_fe (s : State) : s.clearSession.fe = s.fe := rfl
@[simp] theorem State.clearSession_res (s : State) : s.clearSession.res = s.res := rfl
@[simp] theorem State.clearSession_busy (s : State) : s.clearSession.busy = s.busy := rfl
@[simp] theorem State.clearSession_dec (s : State) : s.clearSession.dec = DecimatorState.cleared := rfl
@[simp] theorem State.clearSession_pack (s : State) : s.clearSession.pack = FramePackerState.cleared := rfl
@[simp] theorem State.clearSession_coef (s : State) : s.clearSession.coef = s.coef := rfl
@[simp] theorem State.clearSession_ccap (s : State) : s.clearSession.ccap = s.ccap := rfl
@[simp] theorem State.clearSession_dcap (s : State) : s.clearSession.dcap = s.dcap := rfl
@[simp] theorem State.clearSession_dcount (s : State) : s.clearSession.dcount = s.dcount := rfl
@[simp] theorem State.clearSession_cmdreg (s : State) : s.clearSession.cmdreg = s.cmdreg := rfl
@[simp] theorem State.clearSession_mem (s : State) : s.clearSession.mem = s.mem := rfl
@[simp] theorem State.clearSession_allocCanFail (s : State) : s.clearSession.allocCanFail = s.allocCanFail := rfl
@[simp] theorem State.clearSession_draws (s : State) : s.clearSession.draws = s.draws := rfl
@[simp] theorem State.clearSession_host (s : State) : s.clearSession.host = s.host := rfl
@[simp] theorem State.clearSession_rdata (s : State) : s.clearSession.rdata = s.rdata := rfl

/-! ### `State.endSession` -/

@[simp] theorem State.endSession_valid (s : State) : s.endSession.valid = false := rfl
@[simp] theorem State.endSession_fe (s : State) : s.endSession.fe = false := rfl
@[simp] theorem State.endSession_res (s : State) : s.endSession.res = s.res := rfl
@[simp] theorem State.endSession_busy (s : State) : s.endSession.busy = s.busy := rfl
@[simp] theorem State.endSession_dec (s : State) : s.endSession.dec = DecimatorState.cleared := rfl
@[simp] theorem State.endSession_pack (s : State) : s.endSession.pack = FramePackerState.cleared := rfl
@[simp] theorem State.endSession_coef (s : State) : s.endSession.coef = s.coef := rfl
@[simp] theorem State.endSession_ccap (s : State) : s.endSession.ccap = s.ccap := rfl
@[simp] theorem State.endSession_dcap (s : State) : s.endSession.dcap = s.dcap := rfl
@[simp] theorem State.endSession_dcount (s : State) : s.endSession.dcount = s.dcount := rfl
@[simp] theorem State.endSession_cmdreg (s : State) : s.endSession.cmdreg = s.cmdreg := rfl
@[simp] theorem State.endSession_mem (s : State) : s.endSession.mem = s.mem := rfl
@[simp] theorem State.endSession_allocCanFail (s : State) : s.endSession.allocCanFail = s.allocCanFail := rfl
@[simp] theorem State.endSession_draws (s : State) : s.endSession.draws = s.draws := rfl
@[simp] theorem State.endSession_host (s : State) : s.endSession.host = s.host := rfl
@[simp] theorem State.endSession_rdata (s : State) : s.endSession.rdata = s.rdata := rfl

/-! ### `State.withDecRun` -/

@[simp] theorem State.withDecRun_valid (s : State) (r : DecRun) : (s.withDecRun r).valid = s.valid := rfl
@[simp] theorem State.withDecRun_fe (s : State) (r : DecRun) : (s.withDecRun r).fe = s.fe := rfl
@[simp] theorem State.withDecRun_res (s : State) (r : DecRun) : (s.withDecRun r).res = s.res := rfl
@[simp] theorem State.withDecRun_busy (s : State) (r : DecRun) : (s.withDecRun r).busy = s.busy := rfl
@[simp] theorem State.withDecRun_dec (s : State) (r : DecRun) : (s.withDecRun r).dec = r.dec := rfl
@[simp] theorem State.withDecRun_pack (s : State) (r : DecRun) : (s.withDecRun r).pack = s.pack := rfl
@[simp] theorem State.withDecRun_coef (s : State) (r : DecRun) : (s.withDecRun r).coef = s.coef := rfl
@[simp] theorem State.withDecRun_ccap (s : State) (r : DecRun) : (s.withDecRun r).ccap = s.ccap := rfl
@[simp] theorem State.withDecRun_dcap (s : State) (r : DecRun) : (s.withDecRun r).dcap = s.dcap := rfl
@[simp] theorem State.withDecRun_dcount (s : State) (r : DecRun) : (s.withDecRun r).dcount = s.dcount := rfl
@[simp] theorem State.withDecRun_cmdreg (s : State) (r : DecRun) : (s.withDecRun r).cmdreg = s.cmdreg := rfl
@[simp] theorem State.withDecRun_mem (s : State) (r : DecRun) : (s.withDecRun r).mem = s.mem := rfl
@[simp] theorem State.withDecRun_allocCanFail (s : State) (r : DecRun) : (s.withDecRun r).allocCanFail = s.allocCanFail := rfl
@[simp] theorem State.withDecRun_draws (s : State) (r : DecRun) : (s.withDecRun r).draws = { s.draws with nan := r.emissions } := rfl
@[simp] theorem State.withDecRun_host (s : State) (r : DecRun) : (s.withDecRun r).host = s.host := rfl
@[simp] theorem State.withDecRun_rdata (s : State) (r : DecRun) : (s.withDecRun r).rdata = s.rdata := rfl

/-! ### `State.storeDecOut` -/

@[simp] theorem State.storeDecOut_valid (s : State) (out : List F32) : (s.storeDecOut out).valid = s.valid := rfl
@[simp] theorem State.storeDecOut_fe (s : State) (out : List F32) : (s.storeDecOut out).fe = s.fe := rfl
@[simp] theorem State.storeDecOut_res (s : State) (out : List F32) : (s.storeDecOut out).res = s.res := rfl
@[simp] theorem State.storeDecOut_busy (s : State) (out : List F32) : (s.storeDecOut out).busy = s.busy := rfl
@[simp] theorem State.storeDecOut_dec (s : State) (out : List F32) : (s.storeDecOut out).dec = s.dec := rfl
@[simp] theorem State.storeDecOut_pack (s : State) (out : List F32) : (s.storeDecOut out).pack = s.pack := rfl
@[simp] theorem State.storeDecOut_coef (s : State) (out : List F32) : (s.storeDecOut out).coef = s.coef := rfl
@[simp] theorem State.storeDecOut_ccap (s : State) (out : List F32) : (s.storeDecOut out).ccap = s.ccap := rfl
@[simp] theorem State.storeDecOut_dcap (s : State) (out : List F32) : (s.storeDecOut out).dcap = s.dcap := rfl
@[simp] theorem State.storeDecOut_dcount (s : State) (out : List F32) : (s.storeDecOut out).dcount = out.length := rfl
@[simp] theorem State.storeDecOut_cmdreg (s : State) (out : List F32) : (s.storeDecOut out).cmdreg = s.cmdreg := rfl
@[simp] theorem State.storeDecOut_mem (s : State) (out : List F32) : (s.storeDecOut out).mem = s.mem.storeWords (decOutOffset 0) out := rfl
@[simp] theorem State.storeDecOut_allocCanFail (s : State) (out : List F32) : (s.storeDecOut out).allocCanFail = s.allocCanFail := rfl
@[simp] theorem State.storeDecOut_draws (s : State) (out : List F32) : (s.storeDecOut out).draws = s.draws := rfl
@[simp] theorem State.storeDecOut_host (s : State) (out : List F32) : (s.storeDecOut out).host = s.host := rfl
@[simp] theorem State.storeDecOut_rdata (s : State) (out : List F32) : (s.storeDecOut out).rdata = s.rdata := rfl

/-! ### `State.hardwareReset` -/

@[simp] theorem State.hardwareReset_valid (s : State) : s.hardwareReset.valid = State.reset.valid := rfl
@[simp] theorem State.hardwareReset_fe (s : State) : s.hardwareReset.fe = State.reset.fe := rfl
@[simp] theorem State.hardwareReset_res (s : State) : s.hardwareReset.res = State.reset.res := rfl
@[simp] theorem State.hardwareReset_busy (s : State) : s.hardwareReset.busy = State.reset.busy := rfl
@[simp] theorem State.hardwareReset_dec (s : State) : s.hardwareReset.dec = State.reset.dec := rfl
@[simp] theorem State.hardwareReset_pack (s : State) : s.hardwareReset.pack = State.reset.pack := rfl
@[simp] theorem State.hardwareReset_coef (s : State) : s.hardwareReset.coef = s.coef := rfl
@[simp] theorem State.hardwareReset_ccap (s : State) : s.hardwareReset.ccap = State.reset.ccap := rfl
@[simp] theorem State.hardwareReset_dcap (s : State) : s.hardwareReset.dcap = State.reset.dcap := rfl
@[simp] theorem State.hardwareReset_dcount (s : State) : s.hardwareReset.dcount = State.reset.dcount := rfl
@[simp] theorem State.hardwareReset_cmdreg (s : State) : s.hardwareReset.cmdreg = State.reset.cmdreg := rfl
@[simp] theorem State.hardwareReset_mem (s : State) : s.hardwareReset.mem = State.reset.mem := rfl
@[simp] theorem State.hardwareReset_allocCanFail (s : State) : s.hardwareReset.allocCanFail = s.allocCanFail := rfl
@[simp] theorem State.hardwareReset_draws (s : State) : s.hardwareReset.draws = { s.draws with powerOn := s.draws.powerOn + 1 } := rfl
@[simp] theorem State.hardwareReset_host (s : State) : s.hardwareReset.host = s.host := rfl
@[simp] theorem State.hardwareReset_rdata (s : State) : s.hardwareReset.rdata = s.rdata := rfl

/-! ### `State.countAlloc` changes the allocation counter only -/

@[simp] theorem State.countAlloc_valid (s : State) : s.countAlloc.valid = s.valid := by
  unfold State.countAlloc; split <;> rfl
@[simp] theorem State.countAlloc_fe (s : State) : s.countAlloc.fe = s.fe := by
  unfold State.countAlloc; split <;> rfl
@[simp] theorem State.countAlloc_res (s : State) : s.countAlloc.res = s.res := by
  unfold State.countAlloc; split <;> rfl
@[simp] theorem State.countAlloc_busy (s : State) : s.countAlloc.busy = s.busy := by
  unfold State.countAlloc; split <;> rfl
@[simp] theorem State.countAlloc_dec (s : State) : s.countAlloc.dec = s.dec := by
  unfold State.countAlloc; split <;> rfl
@[simp] theorem State.countAlloc_pack (s : State) : s.countAlloc.pack = s.pack := by
  unfold State.countAlloc; split <;> rfl
@[simp] theorem State.countAlloc_coef (s : State) : s.countAlloc.coef = s.coef := by
  unfold State.countAlloc; split <;> rfl
@[simp] theorem State.countAlloc_ccap (s : State) : s.countAlloc.ccap = s.ccap := by
  unfold State.countAlloc; split <;> rfl
@[simp] theorem State.countAlloc_dcap (s : State) : s.countAlloc.dcap = s.dcap := by
  unfold State.countAlloc; split <;> rfl
@[simp] theorem State.countAlloc_dcount (s : State) : s.countAlloc.dcount = s.dcount := by
  unfold State.countAlloc; split <;> rfl
@[simp] theorem State.countAlloc_cmdreg (s : State) : s.countAlloc.cmdreg = s.cmdreg := by
  unfold State.countAlloc; split <;> rfl
@[simp] theorem State.countAlloc_mem (s : State) : s.countAlloc.mem = s.mem := by
  unfold State.countAlloc; split <;> rfl
@[simp] theorem State.countAlloc_allocCanFail (s : State) : s.countAlloc.allocCanFail = s.allocCanFail := by
  unfold State.countAlloc; split <;> rfl
@[simp] theorem State.countAlloc_host (s : State) : s.countAlloc.host = s.host := by
  unfold State.countAlloc; split <;> rfl
@[simp] theorem State.countAlloc_rdata (s : State) : s.countAlloc.rdata = s.rdata := by
  unfold State.countAlloc; split <;> rfl

/-! ### `State.deliverDenoised` leaves all but `mem`, `res` -/

@[simp] theorem State.deliverDenoised_valid (s : State) (y : Vector F32 480) : (s.deliverDenoised y).valid = s.valid := by
  unfold State.deliverDenoised; split <;> rfl
@[simp] theorem State.deliverDenoised_fe (s : State) (y : Vector F32 480) : (s.deliverDenoised y).fe = s.fe := by
  unfold State.deliverDenoised; split <;> rfl
@[simp] theorem State.deliverDenoised_busy (s : State) (y : Vector F32 480) : (s.deliverDenoised y).busy = s.busy := by
  unfold State.deliverDenoised; split <;> rfl
@[simp] theorem State.deliverDenoised_dec (s : State) (y : Vector F32 480) : (s.deliverDenoised y).dec = s.dec := by
  unfold State.deliverDenoised; split <;> rfl
@[simp] theorem State.deliverDenoised_pack (s : State) (y : Vector F32 480) : (s.deliverDenoised y).pack = s.pack := by
  unfold State.deliverDenoised; split <;> rfl
@[simp] theorem State.deliverDenoised_coef (s : State) (y : Vector F32 480) : (s.deliverDenoised y).coef = s.coef := by
  unfold State.deliverDenoised; split <;> rfl
@[simp] theorem State.deliverDenoised_ccap (s : State) (y : Vector F32 480) : (s.deliverDenoised y).ccap = s.ccap := by
  unfold State.deliverDenoised; split <;> rfl
@[simp] theorem State.deliverDenoised_dcap (s : State) (y : Vector F32 480) : (s.deliverDenoised y).dcap = s.dcap := by
  unfold State.deliverDenoised; split <;> rfl
@[simp] theorem State.deliverDenoised_dcount (s : State) (y : Vector F32 480) : (s.deliverDenoised y).dcount = s.dcount := by
  unfold State.deliverDenoised; split <;> rfl
@[simp] theorem State.deliverDenoised_cmdreg (s : State) (y : Vector F32 480) : (s.deliverDenoised y).cmdreg = s.cmdreg := by
  unfold State.deliverDenoised; split <;> rfl
@[simp] theorem State.deliverDenoised_allocCanFail (s : State) (y : Vector F32 480) : (s.deliverDenoised y).allocCanFail = s.allocCanFail := by
  unfold State.deliverDenoised; split <;> rfl
@[simp] theorem State.deliverDenoised_draws (s : State) (y : Vector F32 480) : (s.deliverDenoised y).draws = s.draws := by
  unfold State.deliverDenoised; split <;> rfl
@[simp] theorem State.deliverDenoised_host (s : State) (y : Vector F32 480) : (s.deliverDenoised y).host = s.host := by
  unfold State.deliverDenoised; split <;> rfl
@[simp] theorem State.deliverDenoised_rdata (s : State) (y : Vector F32 480) : (s.deliverDenoised y).rdata = s.rdata := by
  unfold State.deliverDenoised; split <;> rfl

/-! ### `State.emitChunk` leaves all but `mem`, `res` -/

@[simp] theorem State.emitChunk_valid (s : State) (ch : Vector F32 160) : (s.emitChunk ch).valid = s.valid := by
  unfold State.emitChunk; split <;> rfl
@[simp] theorem State.emitChunk_fe (s : State) (ch : Vector F32 160) : (s.emitChunk ch).fe = s.fe := by
  unfold State.emitChunk; split <;> rfl
@[simp] theorem State.emitChunk_busy (s : State) (ch : Vector F32 160) : (s.emitChunk ch).busy = s.busy := by
  unfold State.emitChunk; split <;> rfl
@[simp] theorem State.emitChunk_dec (s : State) (ch : Vector F32 160) : (s.emitChunk ch).dec = s.dec := by
  unfold State.emitChunk; split <;> rfl
@[simp] theorem State.emitChunk_pack (s : State) (ch : Vector F32 160) : (s.emitChunk ch).pack = s.pack := by
  unfold State.emitChunk; split <;> rfl
@[simp] theorem State.emitChunk_coef (s : State) (ch : Vector F32 160) : (s.emitChunk ch).coef = s.coef := by
  unfold State.emitChunk; split <;> rfl
@[simp] theorem State.emitChunk_ccap (s : State) (ch : Vector F32 160) : (s.emitChunk ch).ccap = s.ccap := by
  unfold State.emitChunk; split <;> rfl
@[simp] theorem State.emitChunk_dcap (s : State) (ch : Vector F32 160) : (s.emitChunk ch).dcap = s.dcap := by
  unfold State.emitChunk; split <;> rfl
@[simp] theorem State.emitChunk_dcount (s : State) (ch : Vector F32 160) : (s.emitChunk ch).dcount = s.dcount := by
  unfold State.emitChunk; split <;> rfl
@[simp] theorem State.emitChunk_cmdreg (s : State) (ch : Vector F32 160) : (s.emitChunk ch).cmdreg = s.cmdreg := by
  unfold State.emitChunk; split <;> rfl
@[simp] theorem State.emitChunk_allocCanFail (s : State) (ch : Vector F32 160) : (s.emitChunk ch).allocCanFail = s.allocCanFail := by
  unfold State.emitChunk; split <;> rfl
@[simp] theorem State.emitChunk_draws (s : State) (ch : Vector F32 160) : (s.emitChunk ch).draws = s.draws := by
  unfold State.emitChunk; split <;> rfl
@[simp] theorem State.emitChunk_host (s : State) (ch : Vector F32 160) : (s.emitChunk ch).host = s.host := by
  unfold State.emitChunk; split <;> rfl
@[simp] theorem State.emitChunk_rdata (s : State) (ch : Vector F32 160) : (s.emitChunk ch).rdata = s.rdata := by
  unfold State.emitChunk; split <;> rfl

/-! ### `State.packOutput` leaves all but `mem`, `res`, `pack` -/

@[simp] theorem State.packOutput_valid (s : State) (out : List F32) : (s.packOutput out).valid = s.valid := by
  unfold State.packOutput; split <;> simp
@[simp] theorem State.packOutput_fe (s : State) (out : List F32) : (s.packOutput out).fe = s.fe := by
  unfold State.packOutput; split <;> simp
@[simp] theorem State.packOutput_busy (s : State) (out : List F32) : (s.packOutput out).busy = s.busy := by
  unfold State.packOutput; split <;> simp
@[simp] theorem State.packOutput_dec (s : State) (out : List F32) : (s.packOutput out).dec = s.dec := by
  unfold State.packOutput; split <;> simp
@[simp] theorem State.packOutput_coef (s : State) (out : List F32) : (s.packOutput out).coef = s.coef := by
  unfold State.packOutput; split <;> simp
@[simp] theorem State.packOutput_ccap (s : State) (out : List F32) : (s.packOutput out).ccap = s.ccap := by
  unfold State.packOutput; split <;> simp
@[simp] theorem State.packOutput_dcap (s : State) (out : List F32) : (s.packOutput out).dcap = s.dcap := by
  unfold State.packOutput; split <;> simp
@[simp] theorem State.packOutput_dcount (s : State) (out : List F32) : (s.packOutput out).dcount = s.dcount := by
  unfold State.packOutput; split <;> simp
@[simp] theorem State.packOutput_cmdreg (s : State) (out : List F32) : (s.packOutput out).cmdreg = s.cmdreg := by
  unfold State.packOutput; split <;> simp
@[simp] theorem State.packOutput_allocCanFail (s : State) (out : List F32) : (s.packOutput out).allocCanFail = s.allocCanFail := by
  unfold State.packOutput; split <;> simp
@[simp] theorem State.packOutput_draws (s : State) (out : List F32) : (s.packOutput out).draws = s.draws := by
  unfold State.packOutput; split <;> simp
@[simp] theorem State.packOutput_host (s : State) (out : List F32) : (s.packOutput out).host = s.host := by
  unfold State.packOutput; split <;> simp
@[simp] theorem State.packOutput_rdata (s : State) (out : List F32) : (s.packOutput out).rdata = s.rdata := by
  unfold State.packOutput; split <;> simp

/-! ### `State.denoiseStage` leaves all but `mem`, `res` and `draws` -/

@[simp] theorem State.denoiseStage_valid (s : State) (x : Vector F32 480) : (s.denoiseStage x).2.valid = s.valid := by
  unfold State.denoiseStage State.callDenoiser; split <;> simp
@[simp] theorem State.denoiseStage_fe (s : State) (x : Vector F32 480) : (s.denoiseStage x).2.fe = s.fe := by
  unfold State.denoiseStage State.callDenoiser; split <;> simp
@[simp] theorem State.denoiseStage_busy (s : State) (x : Vector F32 480) : (s.denoiseStage x).2.busy = s.busy := by
  unfold State.denoiseStage State.callDenoiser; split <;> simp
@[simp] theorem State.denoiseStage_dec (s : State) (x : Vector F32 480) : (s.denoiseStage x).2.dec = s.dec := by
  unfold State.denoiseStage State.callDenoiser; split <;> simp
@[simp] theorem State.denoiseStage_pack (s : State) (x : Vector F32 480) : (s.denoiseStage x).2.pack = s.pack := by
  unfold State.denoiseStage State.callDenoiser; split <;> simp
@[simp] theorem State.denoiseStage_coef (s : State) (x : Vector F32 480) : (s.denoiseStage x).2.coef = s.coef := by
  unfold State.denoiseStage State.callDenoiser; split <;> simp
@[simp] theorem State.denoiseStage_ccap (s : State) (x : Vector F32 480) : (s.denoiseStage x).2.ccap = s.ccap := by
  unfold State.denoiseStage State.callDenoiser; split <;> simp
@[simp] theorem State.denoiseStage_dcap (s : State) (x : Vector F32 480) : (s.denoiseStage x).2.dcap = s.dcap := by
  unfold State.denoiseStage State.callDenoiser; split <;> simp
@[simp] theorem State.denoiseStage_dcount (s : State) (x : Vector F32 480) : (s.denoiseStage x).2.dcount = s.dcount := by
  unfold State.denoiseStage State.callDenoiser; split <;> simp
@[simp] theorem State.denoiseStage_cmdreg (s : State) (x : Vector F32 480) : (s.denoiseStage x).2.cmdreg = s.cmdreg := by
  unfold State.denoiseStage State.callDenoiser; split <;> simp
@[simp] theorem State.denoiseStage_allocCanFail (s : State) (x : Vector F32 480) : (s.denoiseStage x).2.allocCanFail = s.allocCanFail := by
  unfold State.denoiseStage State.callDenoiser; split <;> simp
@[simp] theorem State.denoiseStage_host (s : State) (x : Vector F32 480) : (s.denoiseStage x).2.host = s.host := by
  unfold State.denoiseStage State.callDenoiser; split <;> simp
@[simp] theorem State.denoiseStage_rdata (s : State) (x : Vector F32 480) : (s.denoiseStage x).2.rdata = s.rdata := by
  unfold State.denoiseStage State.callDenoiser; split <;> simp

end Sys2Proof.Machine
end

