-- ==== Sys2Proof/Laws/Bus.lean ====
section
/-! SUPPORT. The address map in offsets, and everything a host access can do (20_memory.md R71 to R81). -/

namespace Sys2Proof.Machine

/-- Whether every row starts where the one before it ends. -/
def tiles : Nat → List MapRow → Bool
  | a, [] => a == windowSize
  | a, r :: rest => r.first == a && a ≤ r.last && tiles (r.last + 1) rest

/-- The rows of the map tile the window: no gap, no overlap (20_memory.md R70, R71). -/
theorem addressMap_tiles : tiles 0 addressMap = true := by decide

/-- Every row starts and ends on a word boundary, so no aligned access crosses two rows. -/
theorem addressMap_aligned : addressMap.all (fun r => r.first % 4 == 0 && (r.last + 1) % 4 == 0) = true := by decide

/-- In rows that tile from `a` on, the row of an offset is the first one that does not end before it. -/
theorem find?_covers_of_tiles (l : List MapRow) (a off : Nat) (ht : tiles a l = true) (h : a ≤ off) :
    l.find? (·.covers off) = l.find? (fun r => off ≤ r.last) := by
  induction l generalizing a with
  | nil => rfl
  | cons r rest ih =>
    simp only [tiles, Bool.and_eq_true, beq_iff_eq, decide_eq_true_eq] at ht
    obtain ⟨⟨h1, _⟩, h3⟩ := ht
    by_cases hl : off ≤ r.last
    · rw [List.find?_cons_of_pos (by simp [MapRow.covers, hl]; omega), List.find?_cons_of_pos (by simp [hl])]
    · rw [List.find?_cons_of_neg (by simp [MapRow.covers, hl]), List.find?_cons_of_neg (by simp [hl])]
      exact ih (r.last + 1) h3 (by omega)

/-- One row of the chain of bounds. -/
theorem find?_last_cons (r : MapRow) (l : List MapRow) (off : Nat) :
    ((r :: l).find? (fun r => decide (off ≤ r.last))).map (·.region) =
      if off ≤ r.last then some r.region else (l.find? (fun r => decide (off ≤ r.last))).map (·.region) := by
  by_cases h : off ≤ r.last <;> simp [h]

/-- The region of an offset, as one chain of bounds. -/
theorem regionAt_eq (off : Nat) : regionAt off =
    if off ≤ 0x0003 then some .cmd else if off ≤ 0x0007 then some .status
    else if off ≤ 0x000B then some .outcap else if off ≤ 0x000F then some .decCount
    else if off ≤ 0x0013 then some .phase else if off ≤ 0x0017 then some .widx
    else if off ≤ 0x001B then some .filled else if off ≤ 0x03FF then some .reserved
    else if off ≤ 0x07BF then some .inBuf else if off ≤ 0x07FF then some .reserved
    else if off ≤ 0x093F then some .chunkBuf else if off ≤ 0x0BFF then some .reserved
    else if off ≤ 0x0FBF then some .denBuf else if off ≤ 0x0FFF then some .reserved
    else if off ≤ 0x177F then some .decIn else if off ≤ 0x17FF then some .reserved
    else if off ≤ 0x193F then some .decOut else if off ≤ 0x1FFF then some .reserved
    else if off ≤ 0x217F then some .coef else if off ≤ 0x23FF then some .reserved
    else if off ≤ 0x257F then some .hist else if off ≤ 0x27FF then some .reserved
    else if off ≤ 0x2A7F then some .acc else if off ≤ 0x3FFF then some .reserved else none := by
  rw [regionAt, rowAt, find?_covers_of_tiles addressMap 0 off addressMap_tiles (Nat.zero_le _)]
  simp only [addressMap, addressMapLow, addressMapHigh, List.cons_append, List.nil_append, find?_last_cons,
    List.find?_nil, Option.map_none]

/-- A property of the region at an offset, as one chain of bounds. -/
theorem any_regionAt (f : Region → Bool) (off : Nat) : (regionAt off).any f = true ↔
    off ≤ 0x0003 ∧ f .cmd ∨ ¬ off ≤ 0x0003 ∧ (off ≤ 0x0007 ∧ f .status ∨ ¬ off ≤ 0x0007 ∧
    (off ≤ 0x000B ∧ f .outcap ∨ ¬ off ≤ 0x000B ∧ (off ≤ 0x000F ∧ f .decCount ∨ ¬ off ≤ 0x000F ∧
    (off ≤ 0x0013 ∧ f .phase ∨ ¬ off ≤ 0x0013 ∧ (off ≤ 0x0017 ∧ f .widx ∨ ¬ off ≤ 0x0017 ∧
    (off ≤ 0x001B ∧ f .filled ∨ ¬ off ≤ 0x001B ∧ (off ≤ 0x03FF ∧ f .reserved ∨ ¬ off ≤ 0x03FF ∧
    (off ≤ 0x07BF ∧ f .inBuf ∨ ¬ off ≤ 0x07BF ∧ (off ≤ 0x07FF ∧ f .reserved ∨ ¬ off ≤ 0x07FF ∧
    (off ≤ 0x093F ∧ f .chunkBuf ∨ ¬ off ≤ 0x093F ∧ (off ≤ 0x0BFF ∧ f .reserved ∨ ¬ off ≤ 0x0BFF ∧
    (off ≤ 0x0FBF ∧ f .denBuf ∨ ¬ off ≤ 0x0FBF ∧ (off ≤ 0x0FFF ∧ f .reserved ∨ ¬ off ≤ 0x0FFF ∧
    (off ≤ 0x177F ∧ f .decIn ∨ ¬ off ≤ 0x177F ∧ (off ≤ 0x17FF ∧ f .reserved ∨ ¬ off ≤ 0x17FF ∧
    (off ≤ 0x193F ∧ f .decOut ∨ ¬ off ≤ 0x193F ∧ (off ≤ 0x1FFF ∧ f .reserved ∨ ¬ off ≤ 0x1FFF ∧
    (off ≤ 0x217F ∧ f .coef ∨ ¬ off ≤ 0x217F ∧ (off ≤ 0x23FF ∧ f .reserved ∨ ¬ off ≤ 0x23FF ∧
    (off ≤ 0x257F ∧ f .hist ∨ ¬ off ≤ 0x257F ∧ (off ≤ 0x27FF ∧ f .reserved ∨ ¬ off ≤ 0x27FF ∧
    (off ≤ 0x2A7F ∧ f .acc ∨ ¬ off ≤ 0x2A7F ∧ (off ≤ 0x3FFF ∧ f .reserved))))))))))))))))))))))) := by
  have step (p : Prop) [Decidable p] (r : Region) (o : Option Region) :
      (if p then some r else o).any f = true ↔ p ∧ f r = true ∨ ¬ p ∧ o.any f = true := by
    by_cases h : p <;> simp [h]
  simp only [regionAt_eq, step, Option.any_none, Bool.false_eq_true, and_false, or_false]

/-- Being in a region, as a property of the region. -/
theorem regionAt_eq_some_iff (off : Nat) (r : Region) :
    regionAt off = some r ↔ (regionAt off).any (· == r) = true := by
  cases regionAt off <;> simp

/-- The RAM buffers, in offsets. -/
theorem isRam_iff (off : Nat) : (regionAt off).any Region.isRam = true ↔
    (0x0400 ≤ off ∧ off ≤ 0x07BF) ∨ (0x0800 ≤ off ∧ off ≤ 0x093F) ∨ (0x0C00 ≤ off ∧ off ≤ 0x0FBF) ∨
    (0x1000 ≤ off ∧ off ≤ 0x177F) ∨ (0x1800 ≤ off ∧ off ≤ 0x193F) := by
  simp only [any_regionAt, Region.isRam, reduceCtorEq, and_false, and_true, false_or, or_false]
  omega

/-- The locations whose writes change state, in offsets. -/
theorem hostWritable_iff (off : Nat) : (regionAt off).any Region.hostWritable = true ↔
    off ≤ 0x0003 ∨ (0x0008 ≤ off ∧ off ≤ 0x000B) ∨ (0x0400 ≤ off ∧ off ≤ 0x07BF) ∨
    (0x1000 ≤ off ∧ off ≤ 0x177F) := by
  simp only [any_regionAt, Region.hostWritable, reduceCtorEq, and_false, and_true, false_or, or_false]
  omega

/-- The locations a 16-bit access may reach, in offsets. -/
theorem allowsHalf_iff (off : Nat) : (regionAt off).any Region.allowsHalf = true ↔
    (0x001C ≤ off ∧ off ≤ 0x0FFF) ∨ (0x1780 ≤ off ∧ off ≤ 0x17FF) ∨ (0x1940 ≤ off ∧ off ≤ 0x1FFF) ∨
    (0x2180 ≤ off ∧ off ≤ 0x23FF) ∨ (0x2580 ≤ off ∧ off ≤ 0x27FF) ∨ (0x2A80 ≤ off ∧ off ≤ 0x3FFF) := by
  simp only [any_regionAt, Region.allowsHalf, reduceCtorEq, and_false, and_true, false_or]
  omega

/-- The window, in offsets. -/
theorem regionAt_isSome_iff (off : Nat) : (regionAt off).isSome = true ↔ off ≤ 0x3FFF := by
  have h : (regionAt off).isSome = (regionAt off).any fun _ => true := by cases regionAt off <;> rfl
  simp only [h, any_regionAt, and_true]
  omega

theorem regionAt_eq_cmd_iff (off : Nat) : regionAt off = some .cmd ↔ off ≤ 0x0003 := by
  simp only [regionAt_eq_some_iff, any_regionAt, beq_iff_eq, reduceCtorEq, and_false, and_true, or_false]

theorem regionAt_eq_outcap_iff (off : Nat) : regionAt off = some .outcap ↔ 0x0008 ≤ off ∧ off ≤ 0x000B := by
  simp only [regionAt_eq_some_iff, any_regionAt, beq_iff_eq, reduceCtorEq, and_false, and_true, false_or, or_false]
  omega

theorem regionAt_eq_inBuf_iff (off : Nat) : regionAt off = some .inBuf ↔ 0x0400 ≤ off ∧ off ≤ 0x07BF := by
  simp only [regionAt_eq_some_iff, any_regionAt, beq_iff_eq, reduceCtorEq, and_false, and_true, false_or, or_false]
  omega

theorem regionAt_eq_decIn_iff (off : Nat) : regionAt off = some .decIn ↔ 0x1000 ≤ off ∧ off ≤ 0x177F := by
  simp only [regionAt_eq_some_iff, any_regionAt, beq_iff_eq, reduceCtorEq, and_false, and_true, false_or, or_false]
  omega

/-- A legal access of 4 bytes is aligned and inside the window. -/
theorem legalAccess_word (off : Nat) : legalAccess off 4 = true ↔ off % 4 = 0 ∧ off ≤ 0x3FFF := by
  simp [legalAccess, regionAt_isSome_iff]

/-- A legal access of 2 bytes is aligned, in an i16 region or a reserved range. -/
theorem legalAccess_half (off : Nat) :
    legalAccess off 2 = true ↔ off % 2 = 0 ∧ (regionAt off).any Region.allowsHalf = true := by
  simp [legalAccess]

/-- A legal access is of 2 or 4 bytes. -/
theorem legalAccess_size {off size : Nat} (h : legalAccess off size = true) : size = 4 ∨ size = 2 := by
  unfold legalAccess at h
  split_ifs at h with h4 h2
  · exact .inl h4
  · exact .inr h2

/-- Everything a host read can do. -/
theorem hostRead_cases (off size : Nat) (s : State) :
    (legalAccess off size = false ∧ hostRead off size s = .stop (.hostProtocol .busError)) ∨
    (legalAccess off size = true ∧ s.busy = true ∧ hostRead off size s = .done { s with
      rdata := some { size := size, value := s.busyValue off size }
      draws := { s.draws with busyRead := s.draws.busyRead + 1 } }) ∨
    (legalAccess off size = true ∧ s.busy = false ∧
      hostRead off size s = .done { s with rdata := some { size := size, value := s.readValue off size } }) := by
  unfold hostRead
  cases hl : legalAccess off size <;> cases hb : s.busy <;> simp

/-- Everything a host write can do. -/
theorem hostWrite_cases (off size : Nat) (v : Word) (s : State) :
    (legalAccess off size = false ∧ hostWrite off size v s = .stop (.hostProtocol .busError)) ∨
    (legalAccess off size = true ∧ s.busy = true ∧ (regionAt off).any Region.hostWritable = true ∧
      hostWrite off size v s = .stop (.hostProtocol .accessWhileBusy)) ∨
    (off = 0 ∧ size = 4 ∧ s.busy = false ∧ hostWrite off size v s = .command v s) ∨
    (legalAccess off size = true ∧ regionAt off ≠ some .cmd ∧
      (s.busy = false ∨ (regionAt off).any Region.hostWritable = false) ∧
      hostWrite off size v s = .done (s.hostStore off size v)) := by
  unfold hostWrite
  cases hl : legalAccess off size
  · simp
  by_cases hc : regionAt off = some .cmd
  · have hoff := (regionAt_eq_cmd_iff off).1 hc
    have h4 : size = 4 ∧ off % 4 = 0 := by
      rcases legalAccess_size hl with rfl | rfl
      · exact ⟨rfl, ((legalAccess_word off).1 hl).1⟩
      · have := (allowsHalf_iff off).1 ((legalAccess_half off).1 hl).2; omega
    have h0 : off = 0 := by omega
    have hw : (regionAt off).any Region.hostWritable = true := (hostWritable_iff off).2 (by omega)
    cases hb : s.busy
    · exact .inr (.inr (.inl ⟨h0, h4.1, rfl, by simp [hc]⟩))
    · exact .inr (.inl ⟨rfl, rfl, hw, by simp [hw]⟩)
  · cases hb : s.busy <;> cases hw : (regionAt off).any Region.hostWritable <;> simp [hc]

/-- What a legal write stores. -/
theorem State.hostStore_cases (off size : Nat) (v : Word) (s : State) :
    (regionAt off = some .outcap ∧ s.hostStore off size v = s.writeOutcap v) ∨
    ((regionAt off = some .inBuf ∨ regionAt off = some .decIn) ∧
      s.hostStore off size v = { s with mem := s.mem.storeBytes off (writtenBytes size v) }) ∨
    (regionAt off ≠ some .outcap ∧ regionAt off ≠ some .inBuf ∧ regionAt off ≠ some .decIn ∧
      s.hostStore off size v = s) := by
  unfold State.hostStore
  split <;> simp_all

theorem writtenBytes_length (size : Nat) (v : Word) (h : size = 4 ∨ size = 2) :
    (writtenBytes size v).length = size := by
  rcases h with rfl | rfl <;> rfl

end Sys2Proof.Machine
end

