-- ==== Sys2Proof/Laws/Operands.lean ====
section
/-! SUPPORT. The operand operations: gathering input entries (70_reset_and_hazards.md R278) and assembling a frame
(41_frame_packer.md R173). -/

namespace Sys2Proof.Machine

/-- Gathering answers the values exactly when every entry has one. -/
theorem gather_eq_some {α : Type} (l : List (Option α)) (xs : List α) :
    gather l = some xs ↔ l = xs.map some := by
  induction l generalizing xs with
  | nil => cases xs <;> simp [gather]
  | cons o rest ih =>
    cases o with
    | none => cases xs <;> simp [gather]
    | some a =>
      cases xs with
      | nil => simp only [gather]; split <;> simp
      | cons x xs =>
        simp only [gather, List.map_cons, List.cons.injEq, Option.some.injEq, ← ih]
        split <;> simp [*]

/-- Gathering fails exactly when an entry has no value. -/
theorem gather_eq_none {α : Type} (l : List (Option α)) : gather l = none ↔ none ∈ l := by
  induction l with
  | nil => simp [gather]
  | cons o rest ih =>
    cases o with
    | none => simp [gather]
    | some a =>
      simp only [gather, List.mem_cons, reduceCtorEq, false_or, ← ih]
      split <;> simp [*]

/-- Gathering the first `n` entries of a buffer: as many values as entries, each the entry's. -/
theorem gather_range_eq_some {α : Type} (f : Nat → Option α) (n : Nat) (xs : List α) :
    gather ((List.range n).map f) = some xs ↔ xs.length = n ∧ ∀ i (h : i < xs.length), f i = some xs[i] := by
  rw [gather_eq_some]
  constructor
  · intro h
    have hl : xs.length = n := by simpa using (congrArg List.length h).symm
    refine ⟨hl, fun i hi => ?_⟩
    have := congrArg (fun l => l[i]?) h
    simpa [List.getElem?_range (hl ▸ hi), hi] using this
  · rintro ⟨rfl, h⟩
    refine List.ext_getElem (by simp) fun i hi hi' => ?_
    simpa using h i (by simpa using hi')

/-- Gathering the first `n` entries of a buffer fails exactly when one of them has no value. -/
theorem gather_range_eq_none {α : Type} (f : Nat → Option α) (n : Nat) :
    gather ((List.range n).map f) = none ↔ ∃ i < n, f i = none := by
  rw [gather_eq_none]; simp

/-- The consumed entries of `inbuf`. -/
theorem State.frameInput_eq_some (s : State) (n : Nat) (xs : List Half) :
    s.frameInput n = some xs ↔ xs.length = min n 480 ∧ ∀ i (h : i < xs.length), s.inbuf? i = some xs[i] :=
  gather_range_eq_some s.inbuf? (frameLength n) xs

theorem State.frameInput_eq_none (s : State) (n : Nat) :
    s.frameInput n = none ↔ ∃ i < min n 480, s.inbuf? i = none := gather_range_eq_none s.inbuf? (frameLength n)

/-- The consumed entries of `decin`. -/
theorem State.decinInput_eq_some (s : State) (n : Nat) (xs : List F32) :
    s.decinInput n = some xs ↔ xs.length = n ∧ ∀ i (h : i < xs.length), s.decin? i = some xs[i] :=
  gather_range_eq_some s.decin? n xs

theorem State.decinInput_eq_none (s : State) (n : Nat) :
    s.decinInput n = none ↔ ∃ i < n, s.decin? i = none := gather_range_eq_none s.decin? n

/-- Each sample of an assembled frame. -/
theorem assembleFrame_getElem (xs : List Half) (i : Nat) (h : i < 480) :
    (assembleFrame xs)[i] = ((xs[i]?).map i2f).getD F32.zero := by
  simp [assembleFrame]

end Sys2Proof.Machine
end

