-- ==== Sys2Proof/Laws/Decimator.lean ====
section
/-! SUPPORT. Everything a DecStep, a DecProcess and a DPUSH can do (40_decimator.md R131 to R142). -/

namespace Sys2Proof.Machine

@[simp] theorem decInsert_phase (d : DecimatorState) (x : F32) : (decInsert d x).phase = d.phase := rfl

@[simp] theorem decInsert_widx (d : DecimatorState) (x : F32) :
    (decInsert d x).widx.val = (d.widx.val + 1) % 96 := rfl

theorem decInsert_hist (d : DecimatorState) (x : F32) (i : Nat) (h : i < 96) :
    (decInsert d x).hist[i] = if d.widx.val = i then x else d.hist[i] := by
  simp [decInsert, Vector.getElem_set]

@[simp] theorem window_length (d : DecimatorState) : (window d).length = 96 := by simp [window]

theorem window_getElem (d : DecimatorState) (k : Nat) (h : k < (window d).length) :
    (window d)[k] = d.hist[(d.widx.val + k) % 96]'(Nat.mod_lt _ (by decide)) := by
  simp [window]

/-- A DecStep that does not complete a decimation cycle emits nothing. -/
theorem decStep_quiet (coef : Vector F32 96) (n : Nat) (d : DecimatorState) (x : F32) (h : d.phase.val + 1 < 6) :
    decStep coef n d x = ({ decInsert d x with phase := ⟨d.phase.val + 1, h⟩ }, none) := by
  simp [decStep, h]

/-- A DecStep that completes a decimation cycle emits the inner product over the new window. -/
theorem decStep_emit (coef : Vector F32 96) (n : Nat) (d : DecimatorState) (x : F32) (h : ¬ d.phase.val + 1 < 6) :
    decStep coef n d x =
      ({ decInsert d x with phase := 0 }, some (firDot coef n (window (decInsert d x)))) := by
  simp [decStep, h]

@[simp] theorem decProcess_nil (coef : Vector F32 96) (d : DecimatorState) (n : Nat) :
    decProcess coef d n [] = { dec := d, emissions := n, out := [] } := rfl

theorem decProcess_quiet (coef : Vector F32 96) (n : Nat) (d : DecimatorState) (x : F32) (xs : List F32)
    (h : d.phase.val + 1 < 6) :
    decProcess coef d n (x :: xs) = decProcess coef { decInsert d x with phase := ⟨d.phase.val + 1, h⟩ } n xs := by
  rw [decProcess, decStep_quiet coef n d x h]

theorem decProcess_emit (coef : Vector F32 96) (n : Nat) (d : DecimatorState) (x : F32) (xs : List F32)
    (h : ¬ d.phase.val + 1 < 6) :
    decProcess coef d n (x :: xs) =
      let r := decProcess coef { decInsert d x with phase := 0 } (n + 1) xs
      { r with out := firDot coef n (window (decInsert d x)) :: r.out } := by
  rw [decProcess, decStep_emit coef n d x h]

/-- The number of outputs is the number of times `phase` wraps. -/
theorem decProcess_out_length (coef : Vector F32 96) (xs : List F32) (d : DecimatorState) (n : Nat) :
    (decProcess coef d n xs).out.length = (d.phase.val + xs.length) / 6 := by
  induction xs generalizing d n with
  | nil => have := d.phase.isLt; simp; omega
  | cons x xs ih =>
    by_cases h : d.phase.val + 1 < 6
    · rw [decProcess_quiet _ _ _ _ _ h, ih]
      simp only [List.length_cons]; omega
    · rw [decProcess_emit _ _ _ _ _ h]
      have := d.phase.isLt
      simp only [List.length_cons, ih, Fin.val_zero]; omega

/-- The emission counter advances by the number of outputs. -/
theorem decProcess_emissions (coef : Vector F32 96) (xs : List F32) (d : DecimatorState) (n : Nat) :
    (decProcess coef d n xs).emissions = n + (decProcess coef d n xs).out.length := by
  induction xs generalizing d n with
  | nil => simp
  | cons x xs ih =>
    by_cases h : d.phase.val + 1 < 6
    · rw [decProcess_quiet _ _ _ _ _ h, ih]
    · rw [decProcess_emit _ _ _ _ _ h]
      simp only [ih, List.length_cons]; omega

/-- Everything an accepted or raised DPUSH can do: one of its three ends. -/
theorem execDpush_cases (n : Nat) (s : State) :
    (s.valid = false ∧ execDpush n s = .next (s.raise codeHandle)) ∨
    (s.valid = true ∧ 480 < n ∧ execDpush n s = .next (s.raise codeInput)) ∨
    (s.valid = true ∧ n ≤ 480 ∧ s.decinInput n = none ∧ execDpush n s = .fault (.hostProtocol .unwrittenInput)) ∨
    (s.valid = true ∧ n ≤ 480 ∧ ∃ xs, s.decinInput n = some xs ∧
      execDpush n s = .next ((s.withDecRun (s.decRun xs)).storeDecOut (s.decRun xs).out).succeed) := by
  unfold execDpush
  cases hv : s.valid with
  | false => simp
  | true =>
    by_cases hn : 480 < n
    · simp [hn]
    · cases hx : s.decinInput n <;> simp [hn] <;> omega

end Sys2Proof.Machine
end

