-- ==== Sys2Proof/Laws/FramePacker.lean ====
section
/-! SUPPORT. Everything PackStep, the denoiser hand-off and a PFRAME can do (41_frame_packer.md R176 to R181). -/

namespace Sys2Proof.Machine

/-- A PackStep that leaves room. -/
theorem packStep_filling (p : FramePackerState) (out : List F32) (h : p.filled.val + out.length < 160) :
    packStep p out =
      ({ acc := writeCells p.acc p.filled.val out, filled := ⟨p.filled.val + out.length, h⟩ }, none) := by
  have hm : min out.length (160 - p.filled.val) = out.length := by omega
  simp [packStep, hm, h]

/-- A PackStep that completes a chunk, dropping what does not fit. -/
theorem packStep_complete (p : FramePackerState) (out : List F32) (h : 160 ≤ p.filled.val + out.length) :
    packStep p out =
      ({ acc := writeCells p.acc p.filled.val (out.take (160 - p.filled.val)), filled := 0 },
       some (writeCells p.acc p.filled.val (out.take (160 - p.filled.val)))) := by
  have := p.filled.isLt
  have hm : min out.length (160 - p.filled.val) = 160 - p.filled.val := by omega
  simp [packStep, hm]

@[simp] theorem State.packOutput_pack (s : State) (out : List F32) :
    (s.packOutput out).pack = (packStep s.pack out).1 := by
  unfold State.packOutput State.emitChunk
  split
  · simp [*]
  · split <;> simp [*]

/-- What an emission does to memory and the flags. -/
theorem State.emitChunk_eq (s : State) (chunk : Vector F32 160) :
    s.emitChunk chunk = { s with
      mem := if 160 ≤ s.ccap.toNat then s.mem.storeHalves (chunkBufOffset 0) (chunk.toList.map f2s) else s.mem
      res := { s.res with ready := true, cskip := s.res.cskip || decide (s.ccap.toNat < 160) } } := by
  unfold State.emitChunk
  by_cases h : 160 ≤ s.ccap.toNat
  · simp [h, State.flagChunk]
  · simp [h, State.flagChunk]; omega

/-- What a delivery does to memory and the flags. -/
theorem State.deliverDenoised_eq (s : State) (y : Vector F32 480) :
    s.deliverDenoised y = { s with
      mem := if 480 ≤ s.dcap.toNat then s.mem.storeHalves (denBufOffset 0) (y.toList.map f2s) else s.mem
      res := { s.res with
        dwr := s.res.dwr || decide (480 ≤ s.dcap.toNat)
        dskip := s.res.dskip || decide (s.dcap.toNat < 480) } } := by
  unfold State.deliverDenoised
  by_cases h : 480 ≤ s.dcap.toNat
  · simp [h, State.flagDenoised]
  · simp [h, State.flagDenoised]; omega

/-- The sample frame that reaches the Decimator. -/
theorem State.denoiseStage_fst (s : State) (x : Vector F32 480) :
    (s.denoiseStage x).1 = if s.fe then Config.denoise s.draws.denoise x else x := by
  unfold State.denoiseStage State.callDenoiser; split <;> rfl

/-- The denoiser stage counts its call and nothing else of the draws. -/
theorem State.denoiseStage_draws (s : State) (x : Vector F32 480) :
    (s.denoiseStage x).2.draws =
      { s.draws with denoise := if s.fe then s.draws.denoise + 1 else s.draws.denoise } := by
  unfold State.denoiseStage State.callDenoiser; split <;> simp

/-- An accepted frame always gives 80 outputs. -/
theorem State.decRun_frame_length (s : State) (y : Vector F32 480) : (s.decRun y.toList).out.length = 80 := by
  have := s.dec.phase.isLt
  rw [State.decRun, decProcess_out_length, Vector.length_toList]; omega

/-- What PackStep does to the state when it is given a frame's 80 outputs. -/
theorem State.packOutput_eq (s : State) (out : List F32) (h : out.length = 80) : s.packOutput out = { s with
    pack := (packStep s.pack out).1
    mem := if 160 ≤ s.pack.filled.val + 80 ∧ 160 ≤ s.ccap.toNat then
        s.mem.storeHalves (chunkBufOffset 0) ((packStep s.pack out).1.acc.toList.map f2s)
      else s.mem
    res := { s.res with
      ready := s.res.ready || decide (160 ≤ s.pack.filled.val + 80)
      cskip := s.res.cskip || (decide (160 ≤ s.pack.filled.val + 80) && decide (s.ccap.toNat < 160)) } } := by
  unfold State.packOutput
  by_cases hc : 160 ≤ s.pack.filled.val + 80
  · rw [packStep_complete _ _ (by omega)]
    simp [State.emitChunk_eq, hc]
  · rw [packStep_filling _ _ (by omega)]
    simp [hc]

/-- What the denoiser stage does to the state. -/
theorem State.denoiseStage_eq (s : State) (x : Vector F32 480) : (s.denoiseStage x).2 = { s with
    mem := if s.fe = true ∧ 480 ≤ s.dcap.toNat then
        s.mem.storeHalves (denBufOffset 0) ((Config.denoise s.draws.denoise x).toList.map f2s)
      else s.mem
    draws := { s.draws with denoise := if s.fe then s.draws.denoise + 1 else s.draws.denoise }
    res := { s.res with
      dwr := s.res.dwr || (s.fe && decide (480 ≤ s.dcap.toNat))
      dskip := s.res.dskip || (s.fe && decide (s.dcap.toNat < 480)) } } := by
  unfold State.denoiseStage State.callDenoiser
  obtain ⟨v, fe⟩ := s
  cases fe
  · simp
  · simp [State.deliverDenoised_eq]

/-- Everything an accepted frame does to the state (41_frame_packer.md R181). -/
theorem State.runFrame_eq (s : State) (x : Vector F32 480) :
    let y := if s.fe then Config.denoise s.draws.denoise x else x
    let r := decProcess s.coef s.dec s.draws.nan y.toList
    s.runFrame x = { s with
      dec := r.dec
      pack := (packStep s.pack r.out).1
      draws := { s.draws with
        nan := r.emissions, denoise := if s.fe then s.draws.denoise + 1 else s.draws.denoise }
      mem :=
        let m := if s.fe = true ∧ 480 ≤ s.dcap.toNat then
            s.mem.storeHalves (denBufOffset 0) (y.toList.map f2s)
          else s.mem
        if 160 ≤ s.pack.filled.val + 80 ∧ 160 ≤ s.ccap.toNat then
          m.storeHalves (chunkBufOffset 0) ((packStep s.pack r.out).1.acc.toList.map f2s)
        else m
      res := {
        result := 0x0000#16
        ready := s.res.ready || decide (160 ≤ s.pack.filled.val + 80)
        cskip := s.res.cskip || (decide (160 ≤ s.pack.filled.val + 80) && decide (s.ccap.toNat < 160))
        dwr := s.res.dwr || (s.fe && decide (480 ≤ s.dcap.toNat))
        dskip := s.res.dskip || (s.fe && decide (s.dcap.toNat < 480)) } } := by
  have e : (s.denoiseStage x).2.decRun (s.denoiseStage x).1.toList = decProcess s.coef s.dec s.draws.nan
      (if s.fe then Config.denoise s.draws.denoise x else x).toList := by
    simp [State.decRun, State.denoiseStage_fst, State.denoiseStage_draws]
  simp only [State.runFrame]
  rw [State.packOutput_eq _ _ (State.decRun_frame_length _ _), e, State.denoiseStage_eq]
  cases hfe : s.fe <;> simp [State.withDecRun, State.succeed]

/-- Everything an accepted or raised PFRAME can do: one of its four ends. -/
theorem execPframe_cases (n : Nat) (s : State) :
    (s.valid = false ∧ execPframe n s = .next (s.raise codeHandle)) ∨
    (s.valid = true ∧ n = 0 ∧ execPframe n s = .next (s.raise codeInput)) ∨
    (s.valid = true ∧ n ≠ 0 ∧ s.frameInput n = none ∧ execPframe n s = .fault (.hostProtocol .unwrittenInput)) ∨
    (s.valid = true ∧ n ≠ 0 ∧ ∃ xs, s.frameInput n = some xs ∧
      execPframe n s = .next (s.runFrame (assembleFrame xs))) := by
  unfold execPframe
  cases hv : s.valid with
  | false => simp
  | true =>
    by_cases hn : n = 0
    · simp [hn]
    · cases hx : s.frameInput n <;> simp [hn]

end Sys2Proof.Machine
end

