-- ==== Sys2Proof/Laws/PerInstr.lean ====
section
/-! SUPPORT. Laws stated per command (LAWS.json): each command's encoding lies in its own row of the opcode map
(30_encoding.md R106), whatever its operand. -/

namespace Sys2Proof.Laws.EncodesItsRow

/-- The encoding of the command is selected by the row of its own mnemonic, and by no other row. -/
def Statement (i : Instr) : Prop :=
  i.wellFormed = true → ∀ r ∈ opcodeMap, (r.selects (encode i) = true ↔ r.mnemonic = i.mnemonic)

/-- A format C word agrees with its row on the mask's bits, and with no other row (30_encoding.md R104). -/
theorem formatC_selects : ∀ n : Fin 512, opcodeMap.all (fun r =>
    r.selects (formatC 0x00000004#32 n.val) == (r.mnemonic == "PFRAME") &&
    r.selects (formatC 0x00000005#32 n.val) == (r.mnemonic == "DPUSH")) = true := by
  decide +kernel

theorem create (fe : Bool) : Statement (.create fe) := by
  intro _ r hr; revert r; cases fe <;> decide

theorem pframe (cnt : Nat) : Statement (.pframe cnt) := by
  intro hw r hr
  have hc : cnt < 512 := by simp [Instr.wellFormed] at hw; omega
  have h := List.all_eq_true.1 (formatC_selects ⟨cnt, hc⟩) r hr
  simp only [Bool.and_eq_true, beq_iff_eq] at h
  simp [encode, h.1, Instr.mnemonic]

theorem dpush (cnt : Nat) : Statement (.dpush cnt) := by
  intro hw r hr
  have hc : cnt < 512 := by simp [Instr.wellFormed] at hw; omega
  have h := List.all_eq_true.1 (formatC_selects ⟨cnt, hc⟩) r hr
  simp only [Bool.and_eq_true, beq_iff_eq] at h
  simp [encode, h.2, Instr.mnemonic]

theorem destroy : Statement .destroy := by
  intro _ r hr; revert r; decide

theorem reset : Statement .reset := by
  intro _ r hr; revert r; decide

end Sys2Proof.Laws.EncodesItsRow
end

