-- ==== Sys2Proof/Laws/Session.lean ====
section
/-! SUPPORT. Everything the session commands can do (42_session.md R211 to R214), and what every command leaves
alone. -/

namespace Sys2Proof.Machine

/-- Everything a CREATE can do: start a session, or report a failed allocation. -/
theorem execCreate_cases (fe : Bool) (s : State) :
    (s.allocDrawFails fe = true ∧ execCreate fe s = .next (s.endSession.countAlloc.raise codeAlloc)) ∨
    (s.allocDrawFails fe = false ∧
      execCreate fe s = .next { s.endSession.countAlloc with valid := true, fe := fe }.succeed) := by
  unfold execCreate
  cases s.allocDrawFails fe <;> simp

/-- Everything a RESET can do. -/
theorem execReset_cases (s : State) :
    (s.valid = false ∧ execReset s = .next (s.raise codeHandle)) ∨
    (s.valid = true ∧ execReset s = .next s.clearSession.succeed) := by
  unfold execReset
  cases s.valid <;> simp

/-- A command completes or is a host-protocol fault for an unwritten input; it refuses nothing. -/
theorem exec_outcome (i : Instr) (s : State) :
    (∃ t, exec i s = .next t) ∨ exec i s = .fault (.hostProtocol .unwrittenInput) := by
  cases i with
  | create fe => rcases execCreate_cases fe s with ⟨_, h⟩ | ⟨_, h⟩ <;> exact .inl ⟨_, h⟩
  | destroy => exact .inl ⟨_, rfl⟩
  | reset => rcases execReset_cases s with ⟨_, h⟩ | ⟨_, h⟩ <;> exact .inl ⟨_, h⟩
  | pframe n =>
    rcases execPframe_cases n s with ⟨_, h⟩ | ⟨_, _, h⟩ | ⟨_, _, _, h⟩ | ⟨_, _, _, _, h⟩
    · exact .inl ⟨_, h⟩
    · exact .inl ⟨_, h⟩
    · exact .inr h
    · exact .inl ⟨_, h⟩
  | dpush n =>
    rcases execDpush_cases n s with ⟨_, h⟩ | ⟨_, _, h⟩ | ⟨_, _, _, h⟩ | ⟨_, _, _, _, h⟩
    · exact .inl ⟨_, h⟩
    · exact .inl ⟨_, h⟩
    · exact .inr h
    · exact .inl ⟨_, h⟩

/-- The state an accepted frame leaves, field by field but for memory, the packer and the flags. -/
theorem State.runFrame_fields (s : State) (x : Vector F32 480) :
    (s.runFrame x).valid = s.valid ∧ (s.runFrame x).fe = s.fe ∧ (s.runFrame x).busy = s.busy ∧
    (s.runFrame x).coef = s.coef ∧ (s.runFrame x).ccap = s.ccap ∧ (s.runFrame x).dcap = s.dcap ∧
    (s.runFrame x).dcount = s.dcount ∧ (s.runFrame x).cmdreg = s.cmdreg ∧
    (s.runFrame x).allocCanFail = s.allocCanFail ∧ (s.runFrame x).host = s.host ∧
    (s.runFrame x).rdata = s.rdata := by
  simp [State.runFrame]

/-- What no command changes: the capacities, the ROM, the strap, the host's actions and what it has read, and the
command register and `busy`, which the common part of a command writes (10_state.md R60). -/
theorem exec_keeps (i : Instr) (s t : State) (h : exec i s = .next t) :
    t.ccap = s.ccap ∧ t.dcap = s.dcap ∧ t.coef = s.coef ∧ t.allocCanFail = s.allocCanFail ∧ t.host = s.host ∧
    t.rdata = s.rdata ∧ t.cmdreg = s.cmdreg ∧ t.busy = s.busy := by
  cases i with
  | create fe =>
    rcases execCreate_cases fe s with ⟨_, e⟩ | ⟨_, e⟩ <;>
      (obtain rfl := Host.Outcome.next.inj (h.symm.trans e); simp)
  | destroy => obtain rfl := Host.Outcome.next.inj (h.symm.trans rfl); simp
  | reset =>
    rcases execReset_cases s with ⟨_, e⟩ | ⟨_, e⟩ <;>
      (obtain rfl := Host.Outcome.next.inj (h.symm.trans e); simp)
  | pframe n =>
    rcases execPframe_cases n s with ⟨_, e⟩ | ⟨_, _, e⟩ | ⟨_, _, _, e⟩ | ⟨_, _, xs, _, e⟩
    · obtain rfl := Host.Outcome.next.inj (h.symm.trans e); simp
    · obtain rfl := Host.Outcome.next.inj (h.symm.trans e); simp
    · exact absurd (h.symm.trans e) (by simp)
    · obtain rfl := Host.Outcome.next.inj (h.symm.trans e)
      have := s.runFrame_fields (assembleFrame xs)
      simp only [this, and_self]
  | dpush n =>
    rcases execDpush_cases n s with ⟨_, e⟩ | ⟨_, _, e⟩ | ⟨_, _, _, e⟩ | ⟨_, _, xs, _, e⟩
    · obtain rfl := Host.Outcome.next.inj (h.symm.trans e); simp
    · obtain rfl := Host.Outcome.next.inj (h.symm.trans e); simp
    · exact absurd (h.symm.trans e) (by simp)
    · obtain rfl := Host.Outcome.next.inj (h.symm.trans e); simp

end Sys2Proof.Machine
end

