-- ==== Sys2Proof/Laws/Step.lean ====
section
/-! SUPPORT. Everything a step can do (20_memory.md R80, 30_encoding.md R109). -/

namespace Sys2Proof.Machine

theorem step_idle (s : State) (h : s.host = []) : step s = .next s := by
  unfold step; rw [h]

theorem step_cons (s : State) (a : HostAction) (rest : List HostAction) (h : s.host = a :: rest) :
    step s = match hostAct a { s with host := rest } with
      | .done t => .next t
      | .command w t => runCommand w t
      | .stop f => .fault f := by
  simp only [step, h] <;> rfl

/-- The body of a command word completes, or is a host-protocol fault for an unwritten input. -/
theorem execWord_outcome (w : Word) (s : State) :
    (∃ t, execWord w s = .next t) ∨ execWord w s = .fault (.hostProtocol .unwrittenInput) := by
  unfold execWord
  split
  · exact exec_outcome _ s
  · exact .inl ⟨_, rfl⟩

/-- A command that completes is its body between the common start and the common end. -/
theorem runCommand_next {w : Word} {s t : State} (h : runCommand w s = .next t) :
    ∃ u, execWord w (s.beginCommand w) = .next u ∧ t = u.endCommand := by
  unfold runCommand at h
  split at h
  · rename_i u hu; exact ⟨u, hu, (Host.Outcome.next.inj h).symm⟩
  · exact absurd h (by simp)
  · exact absurd h (by simp)

/-- Everything a step that goes on can do: idle, a read, a write that stores, a command, or a hardware reset. -/
theorem step_next_cases {s t : State} (h : step s = .next t) :
    (s.host = [] ∧ t = s) ∨
    (∃ off size rest, s.host = .read off size :: rest ∧ legalAccess off size = true ∧
      ((s.busy = true ∧ t = { s with
          host := rest
          rdata := some { size := size, value := s.busyValue off size }
          draws := { s.draws with busyRead := s.draws.busyRead + 1 } }) ∨
       (s.busy = false ∧ t = { s with
          host := rest, rdata := some { size := size, value := s.readValue off size } }))) ∨
    (∃ off size v rest, s.host = .write off size v :: rest ∧ legalAccess off size = true ∧
      regionAt off ≠ some .cmd ∧ (s.busy = false ∨ (regionAt off).any Region.hostWritable = false) ∧
      t = State.hostStore off size v { s with host := rest }) ∨
    (∃ w rest u, s.host = .write 0x000 4 w :: rest ∧ s.busy = false ∧
      execWord w (State.beginCommand w { s with host := rest }) = .next u ∧ t = u.endCommand) ∨
    (∃ rest, s.host = .hardwareReset :: rest ∧ t = State.hardwareReset { s with host := rest }) := by
  match hh : s.host with
  | [] =>
    rw [step_idle s hh] at h
    exact .inl ⟨rfl, (Host.Outcome.next.inj h).symm⟩
  | .read off size :: rest =>
    rw [step_cons s _ rest hh] at h
    simp only [hostAct] at h
    refine .inr (.inl ⟨off, size, rest, rfl, ?_⟩)
    rcases hostRead_cases off size { s with host := rest } with ⟨_, e⟩ | ⟨hl, hb, e⟩ | ⟨hl, hb, e⟩ <;>
      rw [e] at h
    · exact absurd h (by simp)
    · exact ⟨hl, .inl ⟨hb, (Host.Outcome.next.inj h).symm⟩⟩
    · exact ⟨hl, .inr ⟨hb, (Host.Outcome.next.inj h).symm⟩⟩
  | .write off size v :: rest =>
    rw [step_cons s _ rest hh] at h
    simp only [hostAct] at h
    rcases hostWrite_cases off size v { s with host := rest } with
      ⟨_, e⟩ | ⟨_, _, _, e⟩ | ⟨h0, h4, hb, e⟩ | ⟨hl, hc, hb, e⟩ <;> rw [e] at h
    · exact absurd h (by simp)
    · exact absurd h (by simp)
    · subst h0 h4
      obtain ⟨u, hu, ht⟩ := runCommand_next h
      exact .inr (.inr (.inr (.inl ⟨v, rest, u, rfl, hb, hu, ht⟩)))
    · exact .inr (.inr (.inl ⟨off, size, v, rest, rfl, hl, hc, hb, (Host.Outcome.next.inj h).symm⟩))
  | .hardwareReset :: rest =>
    rw [step_cons s _ rest hh] at h
    exact .inr (.inr (.inr (.inr ⟨rest, rfl, (Host.Outcome.next.inj h).symm⟩)))

/-- A legal command write with the core not busy runs the command. -/
theorem step_command (s : State) (rest : List HostAction) (w : Word) (hh : s.host = .write 0x000 4 w :: rest)
    (hb : s.busy = false) : step s = runCommand w { s with host := rest } := by
  rw [step_cons s _ rest hh]
  simp only [hostAct]
  rcases hostWrite_cases 0 4 w { s with host := rest } with ⟨hl, _⟩ | ⟨_, hb', _, _⟩ | ⟨_, _, _, e⟩ | ⟨_, hc, _, _⟩
  · exact absurd hl (by decide)
  · rw [show s.busy = true from hb'] at hb; exact absurd hb (by simp)
  · rw [e]
  · exact absurd ((regionAt_eq_cmd_iff 0).2 (by omega)) hc

/-- The same with the write in front of any list of host actions. -/
theorem step_command_cons (s : State) (rest : List HostAction) (w : Word) (hb : s.busy = false) :
    step { s with host := .write 0x000 4 w :: rest } = runCommand w { s with host := rest } :=
  step_command { s with host := .write 0x000 4 w :: rest } rest w rfl hb

/-- Placing a command word makes the next step run exactly it (log 1). -/
theorem step_withFetchWord (s : State) (nbits w : Nat) :
    step (s.withFetchWord nbits w) = runCommand (tableWord nbits w) { s with busy := false } :=
  step_command (s.withFetchWord nbits w) s.host (tableWord nbits w) rfl rfl

end Sys2Proof.Machine
end

