-- ==== Sys2Proof/Tests/Slice0.lean ====
section
/-! SUPPORT. Tests: the refusals of the well-formedness check and of the assembler, words written out from the formats,
the spec's vectors of 95_test_vectors.md (their names E, B, D, V, F and S are in the test names), and for every
statement with premises a concrete state that meets them. -/

namespace Sys2Proof.Machine

/-! ### Helpers -/

/-- The table `H_ASYM` of 95_test_vectors.md section 0. -/
def hAsym : Vector F32 96 := (Vector.replicate 96 0#32).set 95 0x3F800000#32

/-- The table `H_TEST` of 95_test_vectors.md section 0. -/
def hTest : Vector F32 96 := ((Vector.replicate 96 0#32).set 47 0x3F000000#32).set 48 0x3F000000#32

/-- Right after reset, with host actions to come. -/
def withHost (acts : List HostAction) : State := { State.reset with host := acts }

/-- A session without the denoiser, with the table `H_ASYM`. -/
def session (acts : List HostAction) : State := { State.reset with valid := true, coef := hAsym, host := acts }

/-- A session whose first `xs.length` entries of `inbuf` are written. -/
def withFrame (xs : List Half) : State := { session [] with mem := Memory.storeHalves [] 0x0400 xs }

/-- A session whose first `xs.length` entries of `decin` are written. -/
def withSamples (xs : List F32) : State := { session [] with mem := Memory.storeWords [] 0x1000 xs }

/-- What the next step leaves, seen through `f`; none where it stops. -/
def after {α : Type} (s : State) (f : State → α) : Option α :=
  match step s with
  | .next t => some (f t)
  | .fault _ => none
  | .refused _ => none

/-- The same of one command. -/
def afterExec {α : Type} (i : Instr) (s : State) (f : State → α) : Option α :=
  match exec i s with
  | .next t => some (f t)
  | .fault _ => none
  | .refused _ => none

/-- STATUS as the host reads it. -/
def status (s : State) : Word := s.readValue 0x004 4

/-! ### Well-formedness and the assembler (30_encoding.md R104, R110) -/

theorem test_wellFormed_refuses_pframe_count : (Instr.pframe 512).wellFormed = false := by decide
theorem test_wellFormed_refuses_dpush_count : (Instr.dpush 512).wellFormed = false := by decide
theorem test_assembler_never_truncates : assemble (.pframe 512) = none ∧ assemble (.dpush 1000) = none := by decide
theorem test_assembler_words :
    assemble (.create true) = some 0x00000101#32 ∧ assemble .destroy = some 0x00000002#32 ∧
    assemble .reset = some 0x00000003#32 ∧ assemble (.pframe 200) = some 0x0000C804#32 ∧
    assemble (.dpush 511) = some 0x0001FF05#32 := by decide
theorem test_pseudo_commands : [Pseudo.create, .createNs, .pframe, .dpushFrame].map (fun p => encode p.expand) =
    [0x00000001#32, 0x00000101#32, 0x0001E004#32, 0x0001E005#32] := by decide

/-! ### Decoding (95_test_vectors.md section 2.1; the bits are those of 30_encoding.md R102 to R104) -/

theorem test_decode_create :
    decode 0b00000000000000000000000_1_0000_0001#32 = .ok (.create true) ∧
    decode 0b00000000000000000000000_0_0000_0001#32 = .ok (.create false) := by decide
theorem test_decode_destroy : decode 0b000000000000000000000000_0000_0010#32 = .ok .destroy := by decide
theorem test_decode_reset : decode 0b000000000000000000000000_0000_0011#32 = .ok .reset := by decide
theorem test_decode_pframe :
    decode 0b000000000000000_111100000_0000_0100#32 = .ok (.pframe 480) ∧
    decode 0x0000C804#32 = .ok (.pframe 200) ∧ decode 0x00000004#32 = .ok (.pframe 0) ∧
    decode 0x0001FF04#32 = .ok (.pframe 511) := by decide
theorem test_decode_dpush :
    decode 0b000000000000000_000111100_0000_0101#32 = .ok (.dpush 60) ∧
    decode 0x0001E105#32 = .ok (.dpush 481) := by decide
/-- E3, E5, E7, E12, E13, E19, E20, E21. -/
theorem test_decode_reserved_bits :
    [0x00000201#32, 0x00000102#32, 0x00010003#32, 0x00020004#32, 0x0003E004#32, 0x00000011#32, 0x000000F4#32,
      0x80000005#32].map decode = List.replicate 8 (.illegal .reservedBits) := by decide
/-- E16, E17, E18. -/
theorem test_decode_unassigned :
    decode 0x00000000#32 = .illegal (.unassignedOpcode 0) ∧ decode 0x00000006#32 = .illegal (.unassignedOpcode 6) ∧
    decode 0x0000000F#32 = .illegal (.unassignedOpcode 15) := by decide
theorem test_decode_bytes_little_endian :
    decodeBytes [0x04#8, 0xE0#8, 0x01#8, 0x00#8, 0x99#8] = .ok (.pframe 480, [0x99#8]) ∧
    decodeBytes [0x04#8, 0xE0#8, 0x01#8] = .illegal .truncated := by decide
theorem test_decodeTableWord :
    decodeTableWord 32 0x101 = some (.create true) ∧ decodeTableWord 32 0x1E105 = some (.dpush 481) ∧
    decodeTableWord 32 6 = none := by decide

/-! ### Conversions (95_test_vectors.md section 2.4) -/

/-- V1 to V5. -/
theorem test_i2f : [0x0000#16, 0x03E8#16, 0xFFFF#16, 0x7FFF#16, 0x8000#16].map i2f =
    [0x00000000#32, 0x447A0000#32, 0xBF800000#32, 0x46FFFE00#32, 0xC7000000#32] := by decide
/-- V6 to V11, V14, V18, V19. -/
theorem test_f2s_truncates :
    [0x43FA0000#32, 0x43FA4000#32, 0xC3FA4000#32, 0xBFC00000#32, 0x46FFFDFB#32, 0x46FFFFCD#32, 0xC7000080#32,
      0x80000000#32, 0x00000001#32].map (fun x => (f2s x).toInt) =
    [500, 500, -500, -1, 32766, 32767, -32768, 0, 0] := by decide
/-- V12, V13, V15, V16, V17. -/
theorem test_f2s_saturates :
    [0x471C4000#32, 0xC71C4000#32, 0x7F800000#32, 0xFF800000#32, 0x7FC00000#32, 0xFF800001#32].map
      (fun x => (f2s x).toInt) = [32767, -32768, 32767, -32768, 0, 0] := by decide

/-! ### binary32 arithmetic (the vectors D10 to D14, and IEEE 754's own corner cases) -/

/-- D12, D13: subnormals are kept; half of the smallest one is a tie and rounds to even. -/
theorem test_fmul_subnormal :
    fmul 0x7FC00000#32 0x3F000000#32 0x00000002#32 = 0x00000001#32 ∧
    fmul 0x7FC00000#32 0x3F000000#32 0x00000001#32 = 0x00000000#32 := by decide
/-- D14: 0.5 + 2^-25 is a tie and rounds to even. -/
theorem test_fadd_tie : fadd 0x7FC00000#32 0x3F000000#32 0x33000000#32 = 0x3F000000#32 := by decide
/-- D10: +0.0 + -0.0 = +0.0. -/
theorem test_fadd_zeros : fadd 0x7FC00000#32 0x00000000#32 0x80000000#32 = 0x00000000#32 := by decide
/-- D9: infinity times 0.0 is a NaN, and half of infinity is infinity. -/
theorem test_fmul_infinity :
    fmul 0x7FC00000#32 0x7F800000#32 0x00000000#32 = 0x7FC00000#32 ∧
    fmul 0x7FC00000#32 0x3F000000#32 0x7F800000#32 = 0x7F800000#32 := by decide

/-! ### The Decimator and DPUSH (95_test_vectors.md section 2.3) -/

/-- Samples 1.0 to 6.0. -/
def oneToSix : List F32 := [0x3F800000#32, 0x40000000#32, 0x40400000#32, 0x40800000#32, 0x40A00000#32, 0x40C00000#32]

/-- D1, by DPUSH 6: the newest sample meets `coef[95]`. -/
theorem test_D1_dpush :
    afterExec (.dpush 6) (withSamples oneToSix) (fun t =>
      (t.dcount, t.readValue 0x1800 4, t.dec.phase.val, t.dec.widx.val, status t)) =
    some (1, 0x40C00000#32, 0, 6, 0x00000001#32) := by decide +kernel
/-- D4: five samples emit nothing and leave `phase` at 5. -/
theorem test_D4_dpush_five :
    afterExec (.dpush 5) (withSamples oneToSix) (fun t => (t.dcount, t.dec.phase.val, t.dec.widx.val)) =
    some (0, 5, 5) := by decide
/-- D2, output 9, with `H_TEST` on the ramp: 0.5 * 6 + 0.5 * 7 = 6.5, as DecProcess gives it. -/
theorem test_D2_output :
    (decProcess hTest DecimatorState.cleared 0 ((List.range 54).map fun i => i2f (BitVec.ofNat 16 (i + 1)))).out[8]? =
      some 0x40D00000#32 := by decide +kernel
/-- D7, D15. -/
theorem test_D7_D15_dpush_raises :
    afterExec (.dpush 481) (session []) status = some 0xFFFE0001#32 ∧
    afterExec (.dpush 6) State.reset status = some 0xFFFF0000#32 := by decide

/-! ### Sessions and errors (95_test_vectors.md sections 2.5 and 2.6, and program P3) -/

/-- S1, S2. -/
theorem test_S1_S2_create :
    after (withHost [cmdWord 0x101#32]) status = some 0x00000003#32 ∧
    after { session [cmdWord 0x001#32] with fe := true } status = some 0x00000001#32 := by decide
/-- S5; the live session is the case of program P3, step 10. -/
theorem test_S5_destroy :
    after (withHost [cmdWord 0x2#32]) status = some 0x00000000#32 ∧
    after (session [cmdWord 0x2#32]) status = some 0x00000000#32 := by decide
/-- A session with the denoiser, whose Decimator and Packer are not clear and whose next action is RESET. -/
def usedSession : State := { session [cmdWord 0x3#32] with
  fe := true
  dec := { hist := hAsym, widx := 7, phase := 5 }
  pack := { acc := Vector.replicate 160 1#32, filled := 80 } }
/-- S3: what RESET clears. -/
theorem test_S3_reset_clears :
    after usedSession (fun t => (t.dec, t.pack)) = some (DecimatorState.cleared, FramePackerState.cleared) := rfl
/-- S3: `fe` is kept, and the command succeeds. -/
theorem test_S3_reset_status : after usedSession status = some 0x00000003#32 := by decide
/-- S6, S8, S9, S10. -/
theorem test_raises :
    after (withHost [cmdWord 0x3#32]) status = some 0xFFFF0000#32 ∧
    after (session [cmdWord 0x6#32]) status = some 0xFFFC0001#32 ∧
    after (withHost [cmdWord 0x0#32]) status = some 0xFFFC0000#32 ∧
    after (withHost [cmdWord 0x4#32]) status = some 0xFFFF0000#32 := by decide
/-- F3, F9. -/
theorem test_F3_F9_pframe_raises :
    afterExec (.pframe 0) (session []) status = some 0xFFFE0001#32 ∧
    afterExec (.pframe 480) State.reset status = some 0xFFFF0000#32 := by decide
/-- F4's second half: an entry never written that a PFRAME consumes is a fault. -/
theorem test_pframe_unwritten :
    exec (.pframe 2) (withFrame [0x03E8#16]) = .fault (.hostProtocol .unwrittenInput) := by
  have : (withFrame [0x03E8#16]).frameInput 2 = none := by decide
  simp [exec, execPframe, this, show (withFrame [0x03E8#16]).valid = true from rfl]
/-- The frame of F4's shape with one sample: 1000.0 and then padding. -/
theorem test_short_frame_is_padded :
    ((withFrame [0x03E8#16]).frameInput 1).map (fun xs => ((assembleFrame xs).toList.take 2, (assembleFrame xs)[479])) =
      some ([0x447A0000#32, 0x00000000#32], 0x00000000#32) := by decide +kernel
/-- A frame of F4's shape with 6 samples of 1000, by PFRAME 6 with `H_TEST`: output 8, in cell 7, is 500.0 (the closed
form of section 0), and 80 samples wait in the Packer. -/
theorem test_pframe_short :
    afterExec (.pframe 6) { withFrame (List.replicate 6 0x03E8#16) with coef := hTest } (fun t =>
      (t.pack.acc[7], t.pack.filled.val, status t)) = some (0x43FA0000#32, 80, 0x00000001#32) := by decide +kernel
/-- F7's flags: the second frame's 80 outputs complete a chunk that a `ccap` of 100 skips. -/
theorem test_F7_chunk_skipped :
    let s := { session [] with ccap := 100#8, pack := { acc := Vector.replicate 160 0#32, filled := 80 } }
    status (s.packOutput (List.replicate 80 0x447A0000#32)) = 0x0000000D#32 ∧
    (s.packOutput (List.replicate 80 0x447A0000#32)).pack.filled.val = 0 ∧
    (s.packOutput (List.replicate 80 0x447A0000#32)).mem = [] := by decide
/-- F8's flags: a denoised frame that a `dcap` of 479 skips. -/
theorem test_F8_denoised_skipped :
    status ({ session [] with fe := true, dcap := 479#9 }.deliverDenoised (Vector.replicate 480 0#32)) =
      0x00000023#32 := by decide

/-! ### Host accesses (95_test_vectors.md section 2.2) -/

/-- B1, B2. -/
theorem test_B1_B2_little_endian :
    let s := State.hostStore 0x0400 4 0xFC1803E8#32 State.reset
    s.readValue 0x0400 2 = 0x000003E8#32 ∧ s.readValue 0x0402 2 = 0x0000FC18#32 ∧
    (State.hostStore 0x0402 2 0x8000#32 s).readValue 0x0400 4 = 0x800003E8#32 := by decide
/-- B3, B4. -/
theorem test_B3_B4_outcap :
    (State.hostStore 0x008 4 0xFFFFFFFF#32 State.reset).readValue 0x008 4 = 0x01FF00FF#32 ∧
    State.reset.readValue 0x008 4 = 0x01E000A0#32 := by decide
/-- B5, B6: STATUS is read-only, and a reserved hole reads 0. -/
theorem test_B5_B6_ignored_and_zero :
    after (withHost [w32 0x004 0x12345678#32]) (fun t => (t.readValue 0x004 4, t.readValue 0x0020 4)) =
      some (0#32, 0#32) := by decide
/-- B7, B11, as reads on the bus. -/
theorem test_B7_B11_reads :
    after { withHost [r32 0x000] with cmdreg := 3#32 } (fun t => t.rdata) = some (some { size := 4, value := 3#32 }) ∧
    after { withHost [r32 0x20BC] with coef := hTest } (fun t => t.rdata) =
      some (some { size := 4, value := 0x3F000000#32 }) := by decide
/-- A store leaves the neighbouring element and the other buffer alone (20_memory.md R74, R79). -/
theorem test_store_is_local :
    let s : State := { withFrame [1#16, 2#16, 3#16] with host := [w16 0x0402 9#16] }
    after s (fun t => (t.inbuf? 0, t.inbuf? 1, t.inbuf? 2)) = some (some 1#16, some 9#16, some 3#16) ∧
    after { s with host := [w32 0x1000 7#32] } (fun t => (t.inbuf? 0, t.decin? 0, t.decin? 1)) =
      some (some 1#16, some 7#32, none) := by decide
/-- B8, B9, B10. -/
theorem test_B8_B9_B10_bus_errors :
    legalAccess 0x1000 2 = false ∧ legalAccess 0x0401 2 = false ∧ legalAccess 0x0400 1 = false ∧
    legalAccess 0x3FFC 4 = true ∧ legalAccess 0x4000 4 = false := by decide
/-- B12. -/
theorem test_B12_busy : step { withHost [cmdWord 0x1#32] with busy := true } = .fault (.hostProtocol .accessWhileBusy) :=
  rfl
/-- Hardware reset keeps the strap and draws the buffers afresh. -/
theorem test_hardware_reset :
    after { session [.hardwareReset] with allocCanFail := true, ccap := 1#8 }
      (fun t => (t.valid, t.ccap, t.allocCanFail, t.draws.powerOn)) = some (false, 160#8, true, 1) := by decide
/-- The program loaded by `withFetchWord` is the very next step. -/
theorem test_withFetchWord :
    after (State.reset.withFetchWord 32 0x101) (fun t => (status t, t.cmdreg)) = some (0x3#32, 0x101#32) ∧
    after (State.reset.withFetchWord 32 0x1E005) status = some 0xFFFF0000#32 := by decide

/-! ### Witnesses: states and operands that meet the premises of the statements

One theorem per statement with premises, named after it. Where a premise is that a command or a step answers a next
state, the witness gives that state. -/

theorem witness_DecodeOfEncodeIsTheCommand :
    (Instr.create true).wellFormed = true ∧ Instr.destroy.wellFormed = true ∧ Instr.reset.wellFormed = true ∧
    (Instr.pframe 0).wellFormed = true ∧ (Instr.pframe 511).wellFormed = true ∧
    (Instr.dpush 511).wellFormed = true ∧ (Instr.dpush 512).wellFormed = false := by decide

theorem witness_EncodeOfDecodeIsTheWord : decode 0x0001FF05#32 = .ok (.dpush 511) := by decide

/-- Every row is selected by a word, its largest one included. -/
theorem witness_DecoderSelectsTheOpcodeRow :
    opcodeMap.zip [0x101#32, 0x2#32, 0x3#32, 0x1FF04#32, 0x1FF05#32] |>.all fun (r, w) => r.selects w := by decide

/-- A word for each way to be illegal, at the lowest and the highest bit of its field, on a machine that is not busy. -/
theorem witness_IllegalWordsAndTheirEffect :
    State.reset.busy = false ∧
    [0x00000000#32, 0x00000006#32, 0x0000000F#32, 0x00000011#32, 0x00000082#32, 0x00000201#32, 0x80000001#32,
      0x00000102#32, 0x80000003#32, 0x00020004#32, 0x80000005#32].all
      (fun w => match decode w with
        | .illegal _ => true
        | .ok _ => false) = true := by decide

theorem witness_CommandWriteDecodesAndDispatches : (withHost [cmdWord 0x1FF05#32]).busy = false := rfl

theorem witness_StepRunsTheDecodedCommand :
    State.reset.busy = false ∧ decode 0x00000101#32 = .ok (.create true) ∧ decode 0x00000002#32 = .ok .destroy ∧
    decode 0x00000003#32 = .ok .reset ∧ decode 0x0001FF04#32 = .ok (.pframe 511) ∧
    decode 0x00000005#32 = .ok (.dpush 0) := by decide

theorem witness_ResetClearsTheSession : (session []).valid = true ∧ State.reset.valid = false := ⟨rfl, rfl⟩

theorem reset_withHost_inv (acts : List HostAction) : (withHost acts).Inv := by
  constructor <;> simp [withHost, State.reset, codeOk, codeHandle, codeAlloc, codeInput, isStatusCode,
    FramePackerState.cleared, Memory.wf, Memory.inRam]

theorem witness_DestroyIsIdempotent :
    (∃ s t : State, s.host = .write 0x000 4 0x2#32 :: .write 0x000 4 0x2#32 :: [] ∧ step s = .next t) ∧
    (∃ s : State, s.Inv ∧ s.valid = false ∧ s.host = .write 0x000 4 0x2#32 :: []) :=
  ⟨⟨withHost [cmdWord 2, cmdWord 2], _, rfl, rfl⟩, ⟨withHost [cmdWord 2], reset_withHost_inv _, rfl, rfl⟩⟩

theorem witness_ResetLeavesAFreshSession :
    ∃ s f t u : State, s.valid = true ∧ f.valid = false ∧ f.allocCanFail = false ∧ exec .reset s = .next t ∧
      exec (.create s.fe) f = .next u :=
  ⟨session [], State.reset, _, _, rfl, rfl, rfl, rfl, rfl⟩

/-- Two different states that agree on all the statement asks for; one command that ends in a next state, and one
that faults. -/
theorem witness_CommandsDependOnSessionStateOnly :
    ∃ s s' : State, s ≠ s' ∧ s'.valid = s.valid ∧ s'.fe = s.fe ∧ s'.dec = s.dec ∧ s'.pack = s.pack ∧
      s'.coef = s.coef ∧ s'.ccap = s.ccap ∧ s'.dcap = s.dcap ∧ s'.draws = s.draws ∧
      s'.allocCanFail = s.allocCanFail ∧ s'.res = s.res ∧ (∀ k < 480, s'.inbuf? k = s.inbuf? k) ∧
      (∀ k < 480, s'.decin? k = s.decin? k) ∧ (∃ t, exec .reset s = .next t) ∧
      exec (.pframe 1) s = .fault (.hostProtocol .unwrittenInput) :=
  ⟨session [], { session [] with dcount := 3, cmdreg := 5#32 },
    fun h => absurd (congrArg State.dcount h) (by decide), rfl, rfl, rfl, rfl, rfl, rfl, rfl, rfl, rfl, rfl, fun _ _ => rfl, fun _ _ => rfl, ⟨_, rfl⟩, rfl⟩

theorem witness_SessionFlagsFixedForTheSession :
    ∃ s t : State, step s = .next t ∧ (t.fe ≠ s.fe ∨ t.valid ≠ s.valid) :=
  ⟨withHost [cmdWord 0x101#32], _, rfl, .inl (by decide)⟩

theorem witness_CommandsWithoutASessionRaiseHandle : State.reset.valid = false := rfl

theorem witness_BadCountsRaiseInput : (session []).valid = true ∧ 480 < 481 := ⟨rfl, by decide⟩

theorem witness_ResultCodeFollowsThePrecedence :
    ∃ (s t : State) (rest : List HostAction) (w : Word), s.host = .write 0x000 4 w :: rest ∧ step s = .next t :=
  ⟨withHost [cmdWord 0x4#32], _, _, _, rfl, rfl⟩

/-- Each of the listed faults is met. -/
theorem witness_FaultsAreExactlyTheListed :
    step (withHost [.read 0x0401 2]) = .fault (.hostProtocol .busError) ∧
    step (withHost [.write 0x1000 2 0#32]) = .fault (.hostProtocol .busError) ∧
    step { withHost [w32 0x177C 0#32] with busy := true } = .fault (.hostProtocol .accessWhileBusy) ∧
    step (session [cmdWord 0x104#32]) = .fault (.hostProtocol .unwrittenInput) ∧
    step (session [cmdWord 0x105#32]) = .fault (.hostProtocol .unwrittenInput) := ⟨rfl, rfl, rfl, rfl, rfl⟩

/-- A sample that emits nothing and one that emits. -/
theorem witness_DecStepInsertsAdvancesAndEmits :
    ∃ d e : DecimatorState, d.phase.val + 1 ≠ 6 ∧ e.phase.val + 1 = 6 :=
  ⟨{ DecimatorState.cleared with phase := 4 }, { DecimatorState.cleared with phase := 5 }, by decide, by decide⟩

/-- A table of -1.0 and a window of +0.0: every product is -0.0. -/
theorem witness_FirDotSumsInAscendingOrder :
    ∃ coef w : Vector F32 96, ∀ n k (h : k < 96), fmul (nanResult n (2 * k)) coef[k] w[k] = 0x80000000#32 :=
  ⟨Vector.replicate 96 0xBF800000#32, Vector.replicate 96 0x00000000#32, fun n k h => by
    rw [Vector.getElem_replicate, Vector.getElem_replicate]; rfl⟩

/-- Finite operands: the largest finite value plus half its ulp is the tie that overflows to infinity, the pattern
below that half is not; and 1.0 + 2^-24 is a tie between two finite values. -/
theorem witness_FaddRoundsToNearestEven :
    F32.isFinite 0x7F7FFFFF#32 = true ∧ F32.isFinite 0x73000000#32 = true ∧
    fadd 0#32 0x7F7FFFFF#32 0x73000000#32 = 0x7F800000#32 ∧
    fadd 0#32 0x7F7FFFFF#32 0x72FFFFFF#32 = 0x7F7FFFFF#32 ∧
    fadd 0#32 0x3F800000#32 0x33800000#32 = 0x3F800000#32 := by decide

/-- Finite operands: 31 times 1082401 * 2^103 is the tie that overflows to infinity, and half of the smallest
subnormal is a tie between two finite values. -/
theorem witness_FmulRoundsToNearestEven :
    F32.isFinite 0x41F80000#32 = true ∧ F32.isFinite 0x7D042108#32 = true ∧
    F32.value 0x41F80000#32 * F32.value 0x7D042108#32 = (2 ^ 25 - 1) * 2 ^ 401 ∧
    fmul 0#32 0x41F80000#32 0x7D042108#32 = 0x7F800000#32 ∧
    F32.isFinite (fmul 0#32 0x41F80000#32 0x7D042107#32) = true ∧
    fmul 0#32 0x3F000000#32 0x00000001#32 = 0x00000000#32 := by decide +kernel

/-- Finite operands whose exact sum is 0: zeros that are not both -0.0, the smallest and the largest values that
cancel. -/
theorem test_sums_of_exact_zero :
    [(0x00000000#32, 0x00000000#32), (0x00000000#32, 0x80000000#32), (0x80000000#32, 0x00000000#32),
      (0x00000001#32, 0x80000001#32), (0xBF800000#32, 0x3F800000#32), (0x7F7FFFFF#32, 0xFF7FFFFF#32)].all
      (fun (a, b) => F32.isFinite a && F32.isFinite b && F32.value a + F32.value b == 0 &&
        fadd 0x7FC00000#32 a b == 0x00000000#32) = true := by decide

/-- Each kind of operand, operands that cancel, and the first and last NaN pattern of either sign. -/
theorem witness_SpecialValuesFollowIeee :
    F32.isNaN 0x7F800001#32 = true ∧ F32.isInf 0x7F800000#32 = true ∧ F32.isInf 0xFF800000#32 = true ∧
    F32.sign 0x7F800000#32 ≠ F32.sign 0xFF800000#32 ∧ F32.isFinite 0x7F7FFFFF#32 = true ∧
    F32.isNaN 0x00000001#32 = false ∧
    F32.isFinite 0xFF7FFFFF#32 = true ∧ F32.value 0x7F7FFFFF#32 + F32.value 0xFF7FFFFF#32 = 0 ∧
    ¬ (0x7F7FFFFF#32 = 0x80000000#32 ∧ 0xFF7FFFFF#32 = 0x80000000#32) ∧
    nanPattern 0 = 0x7F800001#32 ∧ nanPattern 8388606 = 0x7FFFFFFF#32 ∧ nanPattern 8388607 = 0xFF800001#32 ∧
    nanPattern 16777213 = 0xFFFFFFFF#32 := by decide

/-- Entries of `inbuf` that are written, as many as there are values. -/
theorem withFrame_inbuf (xs : List Half) (i : Nat) (h : i < xs.length) : (withFrame xs).inbuf? i = some xs[i] := by
  simpa [withFrame, State.inbuf?, inBufOffset, inBufBase] using Memory.half?_storeHalves [] 0x0400 i xs h

/-- Entries of `decin` that are written, as many as there are values. -/
theorem withSamples_decin (xs : List F32) (i : Nat) (h : i < xs.length) : (withSamples xs).decin? i = some xs[i] := by
  simpa [withSamples, State.decin?, decInOffset, decInBase] using Memory.word?_storeWords [] 0x1000 i xs h

theorem withFrame_input (xs : List Half) (n : Nat) (h : xs.length = min n 480) :
    (withFrame xs).frameInput n = some xs :=
  ((withFrame xs).frameInput_eq_some n xs).2 ⟨h, fun i hi => withFrame_inbuf xs i hi⟩

/-- An accepted PFRAME answers a next state. -/
theorem accepted_next (s : State) (n : Nat) (xs : List Half) (hv : s.valid = true) (hn : 1 ≤ n)
    (hx : s.frameInput n = some xs) : exec (.pframe n) s = .next (s.runFrame (assembleFrame xs)) := by
  have h0 : n ≠ 0 := by omega
  simp [exec, execPframe, hv, hx, h0]

/-- A step whose action is an accepted PFRAME answers a next state. -/
theorem step_accepted (s : State) (rest : List HostAction) (w : Word) (n : Nat) (xs : List Half)
    (hh : s.host = .write 0x000 4 w :: rest) (hb : s.busy = false) (hd : decode w = .ok (.pframe n))
    (hv : s.valid = true) (hn : 1 ≤ n) (hx : s.frameInput n = some xs) :
    step s = .next ((State.beginCommand w { s with host := rest }).runFrame (assembleFrame xs)).endCommand := by
  rw [step_command s rest w hh hb]
  unfold runCommand execWord
  rw [hd]
  dsimp only
  rw [accepted_next (State.beginCommand w { s with host := rest }) n xs hv hn hx]

/-- The next action after an accepted PFRAME is judged as it was before it. -/
theorem nextAcceptsFrame_after (s : State) (w : Word) (x : Vector F32 480) :
    ((State.beginCommand w s).runFrame x).endCommand.nextAcceptsFrame = s.nextAcceptsFrame := by
  have := (State.beginCommand w s).runFrame_fields x
  simp [State.nextAcceptsFrame, State.nextCommand?, this]

/-- Each clause: no session, too many samples, an entry never written, and an accepted DPUSH of 0 and of 480. -/
theorem witness_DpushRunsTheDecimator :
    State.reset.valid = false ∧ (session []).valid = true ∧ 480 < 481 ∧ (∃ i < 1, (session []).decin? i = none) ∧
    ∀ n ≤ 480, ∃ xs : List F32, (withSamples xs).valid = true ∧ xs.length = n ∧
      ∀ i (h : i < xs.length), (withSamples xs).decin? i = some xs[i] :=
  ⟨rfl, rfl, by decide, ⟨0, by decide, rfl⟩, fun n _ => ⟨List.replicate n 0x3F800000#32, rfl, by simp,
    withSamples_decin _⟩⟩

/-- A DPUSH that succeeds and one that raises. -/
theorem witness_DpushWritesOnlyItsOutputs :
    (∃ t, exec (.dpush 0) (session []) = .next t ∧ t.res.result = 0x0000#16) ∧
    (∃ t, exec (.dpush 481) (session []) = .next t ∧ t.res.result ≠ 0x0000#16) :=
  ⟨⟨_, rfl, rfl⟩, ⟨_, rfl, by decide⟩⟩

/-- One entry short of the count, at both ends of its range; and a whole frame written. -/
theorem witness_UnwrittenInputsFault :
    (session []).valid = true ∧ (∃ i < min 1 480, (session []).inbuf? i = none) ∧
    (∃ i < min 511 480, (session []).inbuf? i = none) ∧ (∃ i < 480, (session []).decin? i = none) ∧
    ∀ i < min 511 480, ((withFrame (List.replicate 480 0x03E8#16)).inbuf? i).isSome = true := by
  refine ⟨rfl, ⟨0, by decide, rfl⟩, ⟨479, by decide, rfl⟩, ⟨479, by decide, rfl⟩, fun i hi => ?_⟩
  rw [withFrame_inbuf _ i (by rw [List.length_replicate]; omega)]; rfl

/-- Every kind of pattern and both edges of the range that is truncated: 32767.0 and the pattern below it, -32768.0 and
the pattern above it. -/
theorem witness_FloatToIntSaturatesAndTruncates :
    F32.isNaN 0x7FC00000#32 = true ∧ F32.isInf 0xFF800000#32 = true ∧
    32767 * 2 ^ 149 ≤ F32.value 0x46FFFE00#32 ∧
    (-32768 * 2 ^ 149 < F32.value 0x46FFFDFF#32 ∧ F32.value 0x46FFFDFF#32 < 32767 * 2 ^ 149) ∧
    F32.value 0xC7000000#32 ≤ -32768 * 2 ^ 149 ∧
    (-32768 * 2 ^ 149 < F32.value 0xC6FFFFFF#32 ∧ F32.value 0xC6FFFFFF#32 < 32767 * 2 ^ 149) := by decide

/-- Frames of length 1, of 480, and of 511. -/
theorem witness_FrameIsConvertedAndPadded :
    (withFrame [0x03E8#16]).frameInput 1 = some [0x03E8#16] ∧
    (withFrame (List.replicate 480 0x03E8#16)).frameInput 480 = some (List.replicate 480 0x03E8#16) ∧
    (withFrame (List.replicate 480 0x03E8#16)).frameInput 511 = some (List.replicate 480 0x03E8#16) :=
  ⟨withFrame_input _ _ rfl, withFrame_input _ _ List.length_replicate, withFrame_input _ _ List.length_replicate⟩

theorem witness_OverLengthFrameIsClamped : 481 ≤ 481 ∧ 481 ≤ 511 ∧ 481 ≤ 511 ∧ 511 ≤ 511 := by decide

/-- Packers that stay below 160, that reach it exactly, and that drop what does not fit. -/
theorem witness_PackStepAppendsAndCompletes :
    (packStep FramePackerState.cleared (List.replicate 80 0#32)).2 = none ∧
    (packStep { FramePackerState.cleared with filled := 80 } (List.replicate 80 0#32)).1.filled.val = 0 ∧
    (packStep { FramePackerState.cleared with filled := 159 } (List.replicate 80 0#32)).1.filled.val = 0 := by
  decide

/-- Two packers with the same valid cells and other stale ones. -/
theorem witness_StaleCellsAreNeverEmitted :
    ∃ p q : FramePackerState, p ≠ q ∧ q.filled = p.filled ∧ ∀ i (h : i < 160), i < p.filled.val → q.acc[i] = p.acc[i] :=
  ⟨FramePackerState.cleared, { FramePackerState.cleared with acc := Vector.replicate 160 1#32 }, by decide +kernel, rfl,
    fun _ _ h => absurd h (by simp [FramePackerState.cleared])⟩

/-- Each clause: no session, length 0, an entry never written, and accepted frames of length 1, 480 and 511. -/
theorem witness_PframeRunsOneFrame :
    State.reset.valid = false ∧ (session []).valid = true ∧ (∃ i < min 1 480, (session []).inbuf? i = none) ∧
    ∀ n, 1 ≤ n → ∃ xs : List Half, (withFrame xs).valid = true ∧ xs.length = min n 480 ∧
      ∀ i (h : i < xs.length), (withFrame xs).inbuf? i = some xs[i] :=
  ⟨rfl, rfl, ⟨0, by decide, rfl⟩, fun n _ => ⟨List.replicate (min n 480) 0x03E8#16, rfl, by simp, withFrame_inbuf _⟩⟩

/-- An accepted frame, with both outputs delivered and with both skipped. -/
theorem witness_PframeWritesOnlyItsOutputs :
    ∃ s t u : State, ∃ xs : List Half, s.valid = true ∧ s.frameInput 1 = some xs ∧ exec (.pframe 1) s = .next t ∧
      (s.fe = true ∧ 480 ≤ s.dcap.toNat) ∧ (160 ≤ s.pack.filled.val + 80 ∧ 160 ≤ s.ccap.toNat) ∧
      exec (.pframe 1) { s with ccap := 159#8, dcap := 479#9 } = .next u := by
  let s : State := { withFrame [0x03E8#16] with fe := true, pack := { FramePackerState.cleared with filled := 80 } }
  have hx : s.frameInput 1 = some [0x03E8#16] := withFrame_input [0x03E8#16] 1 rfl
  exact ⟨s, _, _, _, rfl, hx, accepted_next s 1 _ rfl (by decide) hx, by decide, by decide,
    accepted_next { s with ccap := 159#8, dcap := 479#9 } 1 [0x03E8#16] rfl (by decide) hx⟩

/-- A step that answers a next state and accepts a frame of a session with the denoiser, and an idle one that does not. -/
theorem witness_DenoiserIsCalledOncePerFrame :
    (∃ s t : State, step s = .next t ∧ (s.nextAcceptsFrame && s.fe) = true) ∧
    (∃ s t : State, step s = .next t ∧ (s.nextAcceptsFrame && s.fe) = false) := by
  let s : State := { withFrame [0x03E8#16] with fe := true, host := [cmdWord 0x104#32] }
  exact ⟨⟨s, _, step_accepted s [] 0x104#32 1 [0x03E8#16] rfl rfl (by decide) rfl (by decide)
    (withFrame_input [0x03E8#16] 1 rfl), by decide⟩, ⟨State.reset, _, rfl, by decide⟩⟩

/-- One step that is an accepted frame, as a run. -/
theorem one_frame_run (s : State) (rest : List HostAction) (w : Word) (n : Nat) (xs : List Half)
    (hh : s.host = .write 0x000 4 w :: rest) (hb : s.busy = false) (hd : decode w = .ok (.pframe n))
    (hv : s.valid = true) (hn : 1 ≤ n) (hx : s.frameInput n = some xs) :
    clearsWithin 1 s = s.nextClearsSession ∧ framesAccepted 1 s = (if s.nextAcceptsFrame then 1 else 0) ∧
    ∃ t, runSteps 1 s = .next t ∧ t.nextAcceptsFrame = { s with host := rest }.nextAcceptsFrame := by
  have hs := step_accepted s rest w n xs hh hb hd hv hn hx
  refine ⟨?_, ?_, _, by simp only [runSteps, hs]; rfl, nextAcceptsFrame_after _ _ _⟩
  · simp only [clearsWithin, hs, Bool.or_false]
  · simp only [framesAccepted, hs, Nat.add_zero]

/-- An empty packer, one step that accepts a frame, and a next action that is an accepted frame again. -/
theorem witness_ChunkCadence :
    ∃ s t : State, s.pack.filled.val = 0 ∧ clearsWithin 1 s = false ∧ runSteps 1 s = .next t ∧
      t.nextAcceptsFrame = true ∧ framesAccepted 1 s = 1 := by
  obtain ⟨hc, hf, t, ht, hn⟩ := one_frame_run
    { withFrame [0x03E8#16] with host := [cmdWord 0x104#32, cmdWord 0x104#32] } [cmdWord 0x104#32] 0x104#32 1 [0x03E8#16]
    rfl rfl (by decide) rfl (by decide) (withFrame_input [0x03E8#16] 1 rfl)
  exact ⟨_, t, rfl, hc.trans (by decide), ht, hn.trans (by decide), hf.trans (by decide)⟩

/-- Two frames in a row, the second in a state whose packer is as the first left it. -/
theorem two_frames (s : State) (xs : List Half) (hv : s.valid = true) (hc : 160 ≤ s.ccap.toNat)
    (hx : s.frameInput 1 = some xs) : ∃ t s' t' : State, exec (.pframe 1) s = .next t ∧ s'.pack = t.pack ∧
      s'.valid = true ∧ s'.frameInput 1 = some xs ∧ 160 ≤ s'.ccap.toNat ∧ exec (.pframe 1) s' = .next t' :=
  ⟨_, { s with pack := (s.runFrame (assembleFrame xs)).pack }, _, accepted_next s 1 xs hv (by decide) hx, rfl, hv, hx,
    hc, accepted_next { s with pack := (s.runFrame (assembleFrame xs)).pack } 1 xs hv (by decide) hx⟩

theorem witness_ChunkIsTheTwoFramesOutputs :
    ∃ (s t s' t' : State) (xs : List Half), s.pack.filled.val = 0 ∧ s.valid = true ∧ s.frameInput 1 = some xs ∧
      exec (.pframe 1) s = .next t ∧ s'.pack = t.pack ∧ s'.valid = true ∧ s'.frameInput 1 = some xs ∧
      160 ≤ s'.ccap.toNat ∧ exec (.pframe 1) s' = .next t' := by
  have hx : (withFrame [0x03E8#16]).frameInput 1 = some [0x03E8#16] := withFrame_input [0x03E8#16] 1 rfl
  obtain ⟨t, s', t', h⟩ := two_frames (withFrame [0x03E8#16]) _ rfl (by decide) hx
  exact ⟨_, t, s', t', _, rfl, rfl, hx, h⟩

/-- An accepted frame with both outputs skipped, at the capacities just below what is needed. -/
theorem witness_SkippedOutputsDoNotDisturb :
    ∃ (s t t' : State) (xs : List Half), s.valid = true ∧ s.frameInput 1 = some xs ∧ exec (.pframe 1) s = .next t ∧
      (80 ≤ s.pack.filled.val ∧ s.ccap.toNat < 160) ∧ (s.fe = true ∧ s.dcap.toNat < 480) ∧
      exec (.pframe 1) { s with ccap := 160#8, dcap := 480#9 } = .next t' := by
  let s : State := { withFrame [0x03E8#16] with
    fe := true, ccap := 159#8, dcap := 479#9, pack := { FramePackerState.cleared with filled := 80 } }
  have hx : s.frameInput 1 = some [0x03E8#16] := withFrame_input [0x03E8#16] 1 rfl
  exact ⟨s, _, _, _, rfl, hx, accepted_next s 1 _ rfl (by decide) hx, by decide, by decide,
    accepted_next { s with ccap := 160#8, dcap := 480#9 } 1 [0x03E8#16] rfl (by decide) hx⟩

/-- Entries of `inbuf` written from the second on leave what lies outside them, and read as written. -/
theorem paddedFrame (s : State) (vs : List Half) (hl : vs.length = 479) :
    let z : State := { s with mem := s.mem.storeHalves 0x0402 vs }
    z = { s with mem := z.mem } ∧ (∀ i (h : 1 ≤ i ∧ i < 480), z.inbuf? i = some (vs[i - 1]'(by omega))) ∧
    ∀ a, a < 0x0400 + 2 * 1 ∨ 0x0400 + 2 * 480 ≤ a → z.mem.byte? a = s.mem.byte? a := by
  refine ⟨rfl, fun i h => ?_, fun a ha => Memory.byte?_storeHalves_of_outside s.mem 0x0402 a vs (by omega)⟩
  have := Memory.half?_storeHalves s.mem 0x0402 (i - 1) vs (by omega)
  rwa [show 0x0402 + 2 * (i - 1) = inBufOffset i by simp [inBufOffset, inBufBase]; omega] at this

/-- A frame of one sample, and the same with 479 entries 0 after it. -/
theorem witness_ShortFrameEqualsZeroPaddedFrame :
    ∃ (s z t : State), z = { s with mem := z.mem } ∧ (∀ i < 480, 1 ≤ i → z.inbuf? i = some 0#16) ∧
      (∀ a, a < 0x0400 + 2 * 1 ∨ 0x0400 + 2 * 480 ≤ a → z.mem.byte? a = s.mem.byte? a) ∧
      exec (.pframe 1) s = .next t := by
  obtain ⟨h1, h2, h3⟩ := paddedFrame (withFrame [0x03E8#16]) (List.replicate 479 0#16) List.length_replicate
  exact ⟨_, _, _, h1, fun i hi h => by rw [h2 i ⟨h, hi⟩, List.getElem_replicate], h3,
    accepted_next _ 1 [0x03E8#16] rfl (by decide) (withFrame_input [0x03E8#16] 1 rfl)⟩

/-- Legal accesses at the edges of the window and of the regions. -/
theorem witness_ReadOnlyAndReservedLocations :
    legalAccess 0x3FFC 4 = true ∧ (regionAt 0x3FFC).any Region.hostWritable = false ∧
    legalAccess 0x001C 2 = true ∧ regionAt 0x001C = some .reserved ∧ legalAccess 0x0008 4 = true ∧
    State.reset.busy = false := by decide

/-- Each clause at the last element of its region. -/
theorem witness_MixedWidthHalfAccess :
    (0x0400 = 0x0400 ∧ 239 < 240) ∧ 479 < 480 ∧
    ∃ (s : State) (v : Half), s.mem.half? (0x0800 + 2 * 159) = some v :=
  ⟨by decide, by decide, ⟨{ State.reset with mem := Memory.storeHalves [] (0x0800 + 2 * 159) [7#16] }, 7#16,
    by decide⟩⟩

/-- The last entries of DEC_IN and DEC_OUT, written. -/
theorem witness_FloatRegionsPassPatterns :
    ∃ s : State, s.decin? 479 = some 0x7FC00001#32 ∧ s.mem.word? (0x1800 + 4 * 79) = some 0x80000000#32 :=
  ⟨{ State.reset with
      mem := Memory.storeWords (Memory.storeWords [] 0x177C [0x7FC00001#32]) 0x193C [0x80000000#32] },
    by decide, by decide⟩

/-- A read, a repeated store at the first and the last writable offset, and a repeated command. -/
theorem witness_OnlyCommandWritesHaveSideEffects :
    (∃ t, step (withHost [r32 0x004]) = .next t) ∧
    (∃ t, step (withHost [w32 0x008 5#32, w32 0x008 5#32]) = .next t) ∧
    (∃ t, step (withHost [w32 0x177C 5#32, w32 0x177C 5#32]) = .next t) ∧
    (∃ t, step (withHost [cmdWord 3#32, cmdWord 3#32]) = .next t) := ⟨⟨_, rfl⟩, ⟨_, rfl⟩, ⟨_, rfl⟩, ⟨_, rfl⟩⟩

/-- A busy machine, and a legal access at the first and the last offset of each range. -/
theorem witness_AccessWhileBusy :
    { State.reset with busy := true }.busy = true ∧
    [0x000, 0x008, 0x400, 0x7BC, 0x1000, 0x177C].all (fun off => legalAccess off 4) = true ∧
    legalAccess 0x7BE 2 = true := by decide

theorem witness_StatusShowsTheResult : (withHost [r32 0x004]).busy = false := rfl

/-- The largest `dcount`, and legal accesses at the first and the last offsets a read and a store may have. -/
theorem witness_RegistersShowTheState :
    { State.reset with dcount := 80 }.dcount ≤ 80 ∧ { State.reset with dcount := 80 }.busy = false ∧
    [(0x0000, 4), (0x3FFC, 4), (0x3FFE, 2), (0x0004, 4), (0x0008, 4), (0x0400, 2)].all
      (fun (off, size) => legalAccess off size) = true ∧ 0x004 ≤ 0x0004 := by decide

/-- A write and a read of the last halfword of IN_BUF and of the last word of DEC_IN. -/
theorem witness_ReadReturnsTheLastWrite :
    (∃ t u, step (withHost [w16 0x7BE 5#16, r16 0x7BE]) = .next t ∧ step t = .next u) ∧
    (∃ t u, step (withHost [w32 0x177C 5#32, r32 0x177C]) = .next t ∧ step t = .next u) :=
  ⟨⟨_, _, rfl, rfl⟩, ⟨_, _, rfl, rfl⟩⟩

/-- An idle machine, a read, a store in each writable buffer, and a store in OUTCAP. -/
theorem witness_HostAccessesLeaveCoreState :
    State.reset.host = [] ∧
    ∀ a ∈ [r32 0x3FFC, w16 0x7BE 5#16, w32 0x1000 5#32, w32 0x008 5#32],
      a ≠ .hardwareReset ∧ (∀ w, a ≠ .write 0x000 4 w) ∧ ∃ t, step (withHost [a]) = .next t := by
  refine ⟨rfl, fun a ha => ?_⟩
  simp only [List.mem_cons, List.not_mem_nil, or_false] at ha
  rcases ha with rfl | rfl | rfl | rfl <;>
    exact ⟨by decide, fun w => by simp [r32, w16, w32], ⟨_, rfl⟩⟩

/-- A step that delivers `decout` afresh, and one that changes no output. -/
theorem witness_OutputsStayUntilDeliveredAfresh :
    (∃ s t : State, step s = .next t ∧ t.dcount ≠ s.dcount ∧ ∀ rest, s.host ≠ .hardwareReset :: rest) ∧
    (∃ s t : State, step s = .next t ∧ t.mem = s.mem ∧ ∀ rest, s.host ≠ .hardwareReset :: rest) :=
  ⟨⟨{ session [cmdWord 0x5#32] with dcount := 3 }, _, rfl, by decide, fun rest => by simp [session, cmdWord, w32]⟩,
    ⟨withHost [r32 0], _, rfl, rfl, fun rest => by simp [withHost, r32]⟩⟩

theorem witness_EveryStepKeepsTheInvariant : ∃ s t : State, s.Inv ∧ step s = .next t :=
  ⟨withHost [cmdWord 0x101#32], _, reset_withHost_inv _, rfl⟩

theorem witness_EveryStepKeepsEntriesWhole : ∃ s t : State, s.mem.wholeEntries ∧ step s = .next t :=
  ⟨withHost [w32 0x400 5#32], _, by constructor <;> intros <;> rfl, rfl⟩

end Sys2Proof.Machine
end

/-! PROOFS. What a host read of a register returns (20_memory.md R73, R80; 10_state.md section 7), and the proofs
of STATUS (R51) and of the power-on values (R59). -/

namespace Sys2Proof.Machine

/-! ### A read, from its bytes to the step -/

/-- A byte of the window is the byte of its row's region. -/
theorem State.windowByte_of_rowAt (s : State) {off : Nat} {r : MapRow} (h : rowAt off = some r) :
    s.windowByte off = s.regionByte off (off - r.first) r.region := by
  simp only [State.windowByte, State.windowByte?, h, Option.getD_some]

/-- A 32-bit read at the start of a row whose first four bytes are those of a word returns that word (R73). -/
theorem State.readValue_of_row (s : State) {off last : Nat} {reg : Region} {w : Word}
    (hrow : ∀ k < 4, rowAt (off + k) = some ⟨off, last, reg⟩)
    (hbyte : ∀ k < 4, s.regionByte (off + k) k reg = byteOfWord w k) : s.readValue off 4 = w := by
  have hb (k : Nat) (hk : k < 4) : s.windowByte (off + k) = byteOfWord w k := by
    rw [s.windowByte_of_rowAt (hrow k hk), Nat.add_sub_cancel_left, hbyte k hk]
  have hv : s.readValue off 4 = wordOfFour (s.windowByte (off + 0)) (s.windowByte (off + 1))
    (s.windowByte (off + 2)) (s.windowByte (off + 3)) := rfl
  rw [hv, hb 0 (by decide), hb 1 (by decide), hb 2 (by decide), hb 3 (by decide), wordOfFour_wordBytes]

/-- A read of STATUS while `busy` = 0 returns its register image. -/
@[simp] theorem State.readValue_status (s : State) : s.readValue 0x004 4 = statusWord s :=
  s.readValue_of_row (last := 0x0007) (reg := .status) (by decide) (fun _ _ => rfl)

/-- A legal read while `busy` = 0 puts its value into `rdata` and changes nothing else (R80). -/
theorem step_read (s : State) (rest : List HostAction) {off size : Nat} (hb : s.busy = false)
    (hl : legalAccess off size = true) : step { s with host := .read off size :: rest } =
      .next { s with host := rest, rdata := some { size := size, value := s.readValue off size } } := by
  rw [step_cons _ (.read off size) rest rfl]
  rcases hostRead_cases off size { s with host := rest } with ⟨hl', _⟩ | ⟨_, hb', _⟩ | ⟨_, _, e⟩
  · simp [hl] at hl'
  · simp [hb] at hb'
  · simp only [hostAct, e]; rfl

/-! ### The fields of STATUS (R51) -/

/-- Bit 0 of a register image that ends in a flag is the flag. -/
theorem getLsbD_append_bit_zero {n : Nat} (x : BitVec n) (b : Bool) : (x ++ bit b).getLsbD 0 = b :=
  BitVec.getLsbD_concat_zero

/-- The other bits of a register image that ends in a flag are those before the flag. -/
theorem getLsbD_append_bit_succ {n : Nat} (x : BitVec n) (b : Bool) (i : Nat) :
    (x ++ bit b).getLsbD (i + 1) = x.getLsbD i := BitVec.getLsbD_concat_succ

/-- Bits 6:0 are the session and the flags. -/
theorem statusWord_flags (s : State) :
    (statusWord s).getLsbD 0 = s.valid ∧ (statusWord s).getLsbD 1 = s.fe ∧
    (statusWord s).getLsbD 2 = s.res.ready ∧ (statusWord s).getLsbD 3 = s.res.cskip ∧
    (statusWord s).getLsbD 4 = s.res.dwr ∧ (statusWord s).getLsbD 5 = s.res.dskip ∧
    (statusWord s).getLsbD 6 = s.busy := by
  simp only [statusWord, getLsbD_append_bit_succ, getLsbD_append_bit_zero, and_self]

/-- A field above the seven flags lies in the result code and the nine reserved bits below it. -/
theorem statusWord_extractLsb'_add (s : State) (i n : Nat) :
    (statusWord s).extractLsb' (7 + i) n = (s.res.result ++ 0#9).extractLsb' i n := by
  have hbit (k : Nat) : (statusWord s).getLsbD (7 + k) = (s.res.result ++ 0#9).getLsbD k := by
    rw [Nat.add_comm]
    simp only [statusWord, getLsbD_append_bit_succ]
  refine BitVec.eq_of_getLsbD_eq fun k _ => ?_
  simp only [BitVec.getLsbD_extractLsb', Nat.add_assoc, hbit]

/-- Bits 15:7 are RAZ/WI. -/
theorem statusWord_reserved (s : State) : (statusWord s).extractLsb' 7 9 = 0#9 :=
  (statusWord_extractLsb'_add s 0 9).trans BitVec.extractLsb'_append_eq_right

/-- Bits 31:16 are the result code. -/
theorem statusWord_result (s : State) : (statusWord s).extractLsb' 16 16 = s.res.result :=
  (statusWord_extractLsb'_add s 9 16).trans BitVec.extractLsb'_append_eq_left

/-- Settles O51: the step is a legal read, and what it reads is the register image, field by field. -/
theorem statusShowsTheResult : Obligations.StatusShowsTheResult := by
  refine ⟨fun s rest hb => ⟨statusWord s, ?_, ?_⟩, ?_⟩
  · rw [step_read s rest hb (by decide), State.readValue_status]
  · obtain ⟨h0, h1, h2, h3, h4, h5, h6⟩ := statusWord_flags s
    exact ⟨h0, h1, h2, h3, h4, h5, h6, statusWord_reserved s, statusWord_result s⟩
  · rw [State.readValue_status]
    decide

/-! ### The power-on values (R59) -/

/-- Every cell of a cleared Decimator's history is +0.0 (R35). -/
@[simp] theorem DecimatorState.cleared_hist_getElem (i : Nat) (h : i < 96) :
    DecimatorState.cleared.hist[i] = F32.zero := Vector.getElem_replicate h

/-- Every cell of a cleared Frame Packer's accumulator is +0.0 (R39). -/
@[simp] theorem FramePackerState.cleared_acc_getElem (i : Nat) (h : i < 160) :
    FramePackerState.cleared.acc[i] = F32.zero := Vector.getElem_replicate h

/-- Settles O55: the two arrays cell by cell; every other piece is a field of `State.reset`. -/
theorem powerOnValues : Obligations.PowerOnValues :=
  ⟨rfl, rfl, rfl, rfl, rfl, rfl, rfl, rfl, DecimatorState.cleared_hist_getElem, rfl, rfl,
    FramePackerState.cleared_acc_getElem, rfl, rfl, rfl, rfl, rfl, rfl, fun _ => rfl⟩

end Sys2Proof.Machine

/-! PROOFS. The regions of the window byte by byte, the elements of the RAM buffers after a store, and what a host
write does in a step (20_memory.md R71 to R80), with the proofs of R74, R75, R78 and R79. -/

namespace Sys2Proof.Machine

/-! ### The row and the region of an offset (R70, R71) -/

/-- Rows that tile from `a` on start at `a` or later. -/
theorem le_first_of_tiles {l : List MapRow} {a : Nat} (ht : tiles a l = true) {r : MapRow} (hr : r ∈ l) :
    a ≤ r.first := by
  induction l generalizing a with
  | nil => cases hr
  | cons x rest ih =>
    simp only [tiles, Bool.and_eq_true, beq_iff_eq, decide_eq_true_eq] at ht
    obtain ⟨⟨hfirst, hlast⟩, hrest⟩ := ht
    rcases List.mem_cons.1 hr with rfl | hr
    · exact hfirst.ge
    · have := ih hrest hr
      omega

/-- In rows that tile, the row found for an offset is the one that covers it. -/
theorem find?_covers_of_mem {l : List MapRow} {a : Nat} (ht : tiles a l = true) {r : MapRow} (hr : r ∈ l)
    {off : Nat} (hc : r.covers off = true) : l.find? (·.covers off) = some r := by
  induction l generalizing a with
  | nil => cases hr
  | cons x rest ih =>
    rcases List.mem_cons.1 hr with rfl | hr
    · exact List.find?_cons_of_pos hc
    · simp only [tiles, Bool.and_eq_true] at ht
      obtain ⟨_, hrest⟩ := ht
      have hfirst := le_first_of_tiles hrest hr
      rw [List.find?_cons_of_neg, ih hrest hr]
      simp only [MapRow.covers, Bool.and_eq_true, decide_eq_true_eq] at hc ⊢
      omega

/-- A row of the map is the row of every offset in it. -/
theorem rowAt_of_mem {r : MapRow} (hr : r ∈ addressMap) {off : Nat} (hfirst : r.first ≤ off)
    (hlast : off ≤ r.last) : rowAt off = some r :=
  find?_covers_of_mem addressMap_tiles hr (by simp [MapRow.covers, hfirst, hlast])

/-- A legal access lies in one region: the rows end on word boundaries. -/
theorem regionAt_add_of_legalAccess {off size k : Nat} (hl : legalAccess off size = true)
    (hk : k < size) : regionAt (off + k) = regionAt off := by
  have hoff : ∀ c, c % 4 = 3 → (off + k ≤ c ↔ off ≤ c) := by
    rcases legalAccess_size hl with rfl | rfl
    · have := ((legalAccess_word off).1 hl).1
      omega
    · have := ((legalAccess_half off).1 hl).1
      omega
  simp only [regionAt_eq, hoff, Nat.reduceMod]

/-! ### What the bytes of a region read as (R71, R78) -/

/-- A byte of the window is some byte of its region. -/
theorem State.windowByte_of_regionAt (s : State) {off : Nat} {reg : Region} (h : regionAt off = some reg) :
    ∃ k, s.windowByte off = s.regionByte off k reg := by
  obtain ⟨r, hr, rfl⟩ := Option.map_eq_some_iff.1 h
  exact ⟨_, s.windowByte_of_rowAt hr⟩

/-- Reserved bytes read as 0. -/
theorem State.windowByte_of_reserved (s : State) {off : Nat} (h : regionAt off = some .reserved) :
    s.windowByte off = 0#8 := by
  obtain ⟨_, hk⟩ := s.windowByte_of_regionAt h
  exact hk

/-- The bytes of a RAM buffer are those of `State.mem`, whichever buffer it is. -/
theorem State.regionByte_of_isRam (s : State) (off k : Nat) :
    ∀ {reg : Region}, reg.isRam = true → s.regionByte off k reg = s.ramByte off
  | .inBuf, _ | .chunkBuf, _ | .denBuf, _ | .decIn, _ | .decOut, _ => rfl

/-- A byte of a RAM buffer that has been written reads as written. -/
theorem State.windowByte_of_isRam (s : State) {off : Nat} {b : Byte} (hb : s.mem.byte? off = some b)
    (h : (regionAt off).any Region.isRam = true) : s.windowByte off = b := by
  obtain ⟨reg, hreg, hram⟩ := (Option.any_eq_true _ _).1 h
  obtain ⟨k, hk⟩ := s.windowByte_of_regionAt hreg
  rw [hk, s.regionByte_of_isRam off k hram, State.ramByte, hb, Option.getD_some]

/-! ### Elements as the host reads them (R73 to R75) -/

/-- A 32-bit read whose bytes are those of a word returns that word. -/
theorem State.readValue_of_wordBytes (s : State) {off : Nat} {w : Word}
    (h : ∀ k < 4, s.windowByte (off + k) = byteOfWord w k) : s.readValue off 4 = w :=
  calc s.readValue off 4
    _ = wordOfFour (s.windowByte (off + 0)) (s.windowByte (off + 1)) (s.windowByte (off + 2))
          (s.windowByte (off + 3)) := rfl
    _ = w := by
      rw [h 0 (by decide), h 1 (by decide), h 2 (by decide), h 3 (by decide), wordOfFour_wordBytes]

/-- Byte `k` of cell `i` of an f32 array. -/
theorem cellByte_getElem {n : Nat} (v : Vector F32 n) {i k : Nat} (hi : i < n) (hk : k < 4) :
    cellByte v (4 * i + k) = byteOfWord v[i] k := by
  have hcell : (4 * i + k) / 4 = i := by omega
  have hbyte : (4 * i + k) % 4 = k := by omega
  simp [cellByte, hcell, hbyte, Vector.getD, hi]

/-- A 32-bit read of a cell of a region that shows an f32 array returns the cell's pattern. -/
theorem State.readValue_cell (s : State) {n : Nat} (v : Vector F32 n) {r : MapRow} (hr : r ∈ addressMap)
    (hlast : r.last + 1 = r.first + 4 * n) (hbyte : ∀ off k, s.regionByte off k r.region = cellByte v k)
    {i : Nat} (hi : i < n) : s.readValue (r.first + 4 * i) 4 = v[i] := by
  refine s.readValue_of_wordBytes fun k hk => ?_
  rw [s.windowByte_of_rowAt (rowAt_of_mem hr (by omega) (by omega)), hbyte,
    show r.first + 4 * i + k - r.first = 4 * i + k by omega, cellByte_getElem v hi hk]

/-- A 16-bit element that has been written is made of its two bytes. -/
theorem Memory.half?_eq_some {m : Memory} {a : Nat} {v : Half} (h : m.half? a = some v) :
    ∃ b0 b1, m.byte? a = some b0 ∧ m.byte? (a + 1) = some b1 ∧ halfOfBytes b0 b1 = v := by
  unfold Memory.half? at h
  split at h
  next b0 b1 h0 h1 => exact ⟨b0, b1, h0, h1, Option.some.inj h⟩
  next => cases h

/-- A 32-bit element that has been written is made of its four bytes. -/
theorem Memory.word?_eq_some {m : Memory} {a : Nat} {w : Word} (h : m.word? a = some w) :
    ∃ b0 b1 b2 b3, m.byte? a = some b0 ∧ m.byte? (a + 1) = some b1 ∧ m.byte? (a + 2) = some b2 ∧
      m.byte? (a + 3) = some b3 ∧ wordOfFour b0 b1 b2 b3 = w := by
  unfold Memory.word? at h
  split at h
  next b0 b1 b2 b3 h0 h1 h2 h3 => exact ⟨b0, b1, b2, b3, h0, h1, h2, h3, Option.some.inj h⟩
  next => cases h

/-- A 16-bit read of a written element of a RAM buffer returns the element. -/
theorem State.readValue_of_half? (s : State) {off : Nat} {v : Half} (h : s.mem.half? off = some v)
    (hram : ∀ k < 2, (regionAt (off + k)).any Region.isRam = true) :
    s.readValue off 2 = v.setWidth 32 := by
  obtain ⟨b0, b1, h0, h1, rfl⟩ := Memory.half?_eq_some h
  simp only [State.readValue, if_true, s.windowByte_of_isRam h0 (hram 0 (by decide)),
    s.windowByte_of_isRam h1 (hram 1 (by decide))]

/-- A 32-bit read of a written element of a RAM buffer returns the element. -/
theorem State.readValue_of_word? (s : State) {off : Nat} {w : Word} (h : s.mem.word? off = some w)
    (hram : ∀ k < 4, (regionAt (off + k)).any Region.isRam = true) : s.readValue off 4 = w := by
  obtain ⟨b0, b1, b2, b3, h0, h1, h2, h3, rfl⟩ := Memory.word?_eq_some h
  simp only [State.readValue, Nat.reduceEqDiff, if_false, s.windowByte_of_isRam h0 (hram 0 (by decide)),
    s.windowByte_of_isRam h1 (hram 1 (by decide)), s.windowByte_of_isRam h2 (hram 2 (by decide)),
    s.windowByte_of_isRam h3 (hram 3 (by decide))]

/-- The low half of a word is its first two bytes and the high half its last two. -/
theorem wordOfFour_eq_append (b0 b1 b2 b3 : Byte) :
    wordOfFour b0 b1 b2 b3 = halfOfBytes b2 b3 ++ halfOfBytes b0 b1 :=
  BitVec.append_assoc

/-- A 32-bit read is the 16-bit reads of its two halves, whatever the region. -/
theorem State.readValue_four_eq_append (s : State) (off : Nat) : s.readValue off 4 =
    (s.readValue (off + 2) 2).setWidth 16 ++ (s.readValue off 2).setWidth 16 := by
  simp only [State.readValue, Nat.reduceEqDiff, if_false, if_true, wordOfFour_eq_append,
    BitVec.setWidth_setWidth_of_le _ (by decide : 16 ≤ 32), BitVec.setWidth_eq, Nat.add_assoc, Nat.reduceAdd]

/-- A legal read of a reserved location returns 0 (R78). -/
theorem State.readValue_reserved (s : State) {off size : Nat} (hl : legalAccess off size = true)
    (hr : regionAt off = some .reserved) : s.readValue off size = 0#32 := by
  have hb (k : Nat) (hk : k < size) : s.windowByte (off + k) = 0#8 :=
    s.windowByte_of_reserved ((regionAt_add_of_legalAccess hl hk).trans hr)
  rcases legalAccess_size hl with rfl | rfl
  · refine s.readValue_of_wordBytes fun k hk => ?_
    rw [hb k hk, byteOfWord, BitVec.extractLsb'_zero]
  · have h0 : s.windowByte off = 0#8 := hb 0 (by decide)
    simp only [State.readValue, if_true, h0, hb 1 (by decide)]
    rfl

/-! ### Elements after a store (R74, R75) -/

/-- After a store of i16 elements from element `i` of an array on, an element is the stored one or as before. -/
theorem Memory.half?_storeHalves_elements (m : Memory) (a i k : Nat) (vs : List Half) :
    (m.storeHalves (a + 2 * i) vs).half? (a + 2 * k) =
      if i ≤ k ∧ k < i + vs.length then vs[k - i]? else m.half? (a + 2 * k) := by
  split_ifs with h
  · rw [show a + 2 * k = a + 2 * i + 2 * (k - i) by omega, Memory.half?_storeHalves m _ _ vs (by omega),
      List.getElem?_eq_getElem]
  · exact Memory.half?_congr (Memory.byte?_storeHalves_of_outside _ _ _ _ (by omega))
      (Memory.byte?_storeHalves_of_outside _ _ _ _ (by omega))

/-- After a store of 32-bit elements from element `i` of an array on, an element is the stored one or as before. -/
theorem Memory.word?_storeWords_elements (m : Memory) (a i k : Nat) (vs : List Word) :
    (m.storeWords (a + 4 * i) vs).word? (a + 4 * k) =
      if i ≤ k ∧ k < i + vs.length then vs[k - i]? else m.word? (a + 4 * k) := by
  split_ifs with h
  · rw [show a + 4 * k = a + 4 * i + 4 * (k - i) by omega, Memory.word?_storeWords m _ _ vs (by omega),
      List.getElem?_eq_getElem]
  · exact Memory.word?_congr fun j hj => Memory.byte?_storeWords_of_outside _ _ _ _ (by omega)

/-- A field of a field is a field. -/
theorem extractLsb'_extractLsb'_add {w : Nat} (x : BitVec w) (i j : Nat) {m n : Nat} (h : j + n ≤ m) :
    (x.extractLsb' i m).extractLsb' j n = x.extractLsb' (i + j) n := by
  refine BitVec.eq_of_getLsbD_eq fun k hk => ?_
  simp [hk, show j + k < m by omega, Nat.add_assoc]

/-- The bytes of a word are those of its two halves. -/
theorem wordBytes_eq_halfBytes (v : Word) :
    wordBytes v = halfBytes (v.extractLsb' 0 16) ++ halfBytes (v.extractLsb' 16 16) := by
  simp [wordBytes, halfBytes, byteOfWord, extractLsb'_extractLsb'_add]

/-! ### What a host write stores (R74, R75, R78) -/

/-- A write to IN_BUF or DEC_IN stores its bytes. -/
theorem State.hostStore_buffer (s : State) {off : Nat} (size : Nat) (v : Word)
    (h : regionAt off = some .inBuf ∨ regionAt off = some .decIn) :
    s.hostStore off size v = { s with mem := s.mem.storeBytes off (writtenBytes size v) } := by
  rcases h with h | h <;> simp only [State.hostStore, h]

/-- A 16-bit write to IN_BUF stores one element. -/
theorem State.hostStore_inBuf_half (s : State) {i : Nat} (hi : i < 480) (v : Half) :
    s.hostStore (0x0400 + 2 * i) 2 (v.setWidth 32) =
      { s with mem := s.mem.storeHalves (0x0400 + 2 * i) [v] } := by
  rw [s.hostStore_buffer 2 _ (.inl ((regionAt_eq_inBuf_iff _).2 (by omega)))]
  simp [writtenBytes, Memory.storeHalves]

/-- A 32-bit write to IN_BUF stores two elements, the low half first. -/
theorem State.hostStore_inBuf_word (s : State) {j : Nat} (hj : j < 240) (v : Word) :
    s.hostStore (0x0400 + 4 * j) 4 v =
      { s with mem := s.mem.storeHalves (0x0400 + 2 * (2 * j)) [v.extractLsb' 0 16, v.extractLsb' 16 16] } := by
  rw [s.hostStore_buffer 4 _ (.inl ((regionAt_eq_inBuf_iff _).2 (by omega))),
    show 0x0400 + 4 * j = 0x0400 + 2 * (2 * j) by omega]
  simp [writtenBytes, Memory.storeHalves, wordBytes_eq_halfBytes]

/-- A 32-bit write to DEC_IN stores one element. -/
theorem State.hostStore_decIn (s : State) {i : Nat} (hi : i < 480) (v : Word) :
    s.hostStore (0x1000 + 4 * i) 4 v = { s with mem := s.mem.storeWords (0x1000 + 4 * i) [v] } := by
  rw [s.hostStore_buffer 4 _ (.inr ((regionAt_eq_decIn_iff _).2 (by omega)))]
  simp [writtenBytes, Memory.storeWords]

/-- A write to a location that is not host-writable stores nothing. -/
theorem State.hostStore_of_not_hostWritable (s : State) {off : Nat} (size : Nat) (v : Word)
    (h : (regionAt off).any Region.hostWritable = false) : s.hostStore off size v = s := by
  have hreg {reg : Region} (hr : regionAt off = some reg) : reg.hostWritable = false := by simpa [hr] using h
  rcases s.hostStore_cases off size v with ⟨hr, _⟩ | ⟨hr | hr, _⟩ | ⟨_, _, _, e⟩
  · cases hreg hr
  · cases hreg hr
  · cases hreg hr
  · exact e

/-! ### The same store again (R79) -/

/-- A byte that is stored already stays stored: storing it again after bytes at higher offsets changes nothing. -/
theorem Memory.store_store_of_lt {m : Memory} {a b : Nat} {v : Byte} (w : Byte) (hab : a < b)
    (h : m.store a v = m) : (m.store b w).store a v = m.store b w := by
  induction m with
  | nil => simp [Memory.store] at h
  | cons c rest ih =>
    obtain ⟨x, y⟩ := c
    rcases Nat.lt_trichotomy a x with hx | rfl | hx
    · simp [Memory.store, hx] at h
    · obtain rfl : v = y := by simpa [Memory.store] using h
      simp [Memory.store, hab.not_gt, hab.ne']
    · have hxb := hx.trans hab
      have hrest : Memory.store rest a v = rest := by simpa [Memory.store, hx.not_gt, hx.ne'] using h
      simp [Memory.store, hx.not_gt, hx.ne', hxb.not_gt, hxb.ne', ih hrest]

/-- The same for a run of bytes at higher offsets. -/
theorem Memory.store_storeBytes_of_lt {m : Memory} {a b : Nat} {v : Byte} (vs : List Byte) (hab : a < b)
    (h : m.store a v = m) : (m.storeBytes b vs).store a v = m.storeBytes b vs := by
  induction vs generalizing m b with
  | nil => exact h
  | cons w vs ih => exact ih (by omega) (Memory.store_store_of_lt w hab h)

/-- Storing a byte twice is storing it once, whatever the order of the list. -/
theorem Memory.store_store_same (m : Memory) (a : Nat) (v : Byte) : (m.store a v).store a v = m.store a v := by
  induction m with
  | nil => simp [Memory.store]
  | cons c rest ih =>
    obtain ⟨x, y⟩ := c
    rcases Nat.lt_trichotomy a x with hx | rfl | hx
    · simp [Memory.store, hx]
    · simp [Memory.store]
    · simp [Memory.store, hx.not_gt, hx.ne', ih]

/-- Storing a run of bytes twice is storing it once. -/
theorem Memory.storeBytes_storeBytes_same (m : Memory) (a : Nat) (vs : List Byte) :
    (m.storeBytes a vs).storeBytes a vs = m.storeBytes a vs := by
  induction vs generalizing m a with
  | nil => rfl
  | cons v vs ih =>
    have hkeep := Memory.store_storeBytes_of_lt vs (Nat.lt_succ_self a) (m.store_store_same a v)
    simp only [Memory.storeBytes, hkeep, ih]

/-- A host write stores at most the capacities and the buffers. -/
theorem State.hostStore_eq (s : State) (off size : Nat) (v : Word) : s.hostStore off size v =
    { s with
      ccap := (s.hostStore off size v).ccap
      dcap := (s.hostStore off size v).dcap
      mem := (s.hostStore off size v).mem } := by
  unfold State.hostStore
  split <;> rfl

/-- A host write leaves the host's coming actions. -/
@[simp] theorem State.hostStore_host (s : State) (off size : Nat) (v : Word) :
    (s.hostStore off size v).host = s.host := by rw [s.hostStore_eq]

/-- A host write leaves `busy`. -/
@[simp] theorem State.hostStore_busy (s : State) (off size : Nat) (v : Word) :
    (s.hostStore off size v).busy = s.busy := by rw [s.hostStore_eq]

/-- The same write again, with any host actions to come, stores nothing more. -/
theorem State.hostStore_hostStore_same (s : State) (off size : Nat) (v : Word) (rest : List HostAction) :
    State.hostStore off size v { s.hostStore off size v with host := rest } =
      { s.hostStore off size v with host := rest } := by
  unfold State.hostStore
  split <;> simp only [State.writeOutcap, Memory.storeBytes_storeBytes_same]

/-! ### The host's accesses as steps (R78 to R80) -/

/-- A legal write that is no command write and no fault stores, and the step is complete. -/
theorem step_write (s : State) {rest : List HostAction} {off size : Nat} {v : Word}
    (hh : s.host = .write off size v :: rest) (hl : legalAccess off size = true) (hc : regionAt off ≠ some .cmd)
    (hw : s.busy = false ∨ (regionAt off).any Region.hostWritable = false) :
    step s = .next (State.hostStore off size v { s with host := rest }) := by
  rw [step_cons s _ rest hh]
  rcases hostWrite_cases off size v { s with host := rest } with
    ⟨hl', _⟩ | ⟨_, hb', hw', _⟩ | ⟨rfl, _⟩ | ⟨_, _, _, e⟩
  · simp [hl] at hl'
  · rcases hw with hb | hw
    · simp [hb] at hb'
    · simp [hw] at hw'
  · exact absurd ((regionAt_eq_cmd_iff 0).2 (by decide)) hc
  · simp only [hostAct, e]

/-- A completed write at an offset above CMD was legal and no fault, and it stored. -/
theorem step_write_next {s t : State} {rest : List HostAction} {off size : Nat} {v : Word}
    (hh : s.host = .write off size v :: rest) (hoff : 0x004 ≤ off) (h : step s = .next t) :
    legalAccess off size = true ∧ regionAt off ≠ some .cmd ∧
      (s.busy = false ∨ (regionAt off).any Region.hostWritable = false) ∧
      t = State.hostStore off size v { s with host := rest } := by
  rcases step_next_cases h with ⟨hh', _⟩ | ⟨_, _, _, hh', _⟩ | ⟨_, _, _, _, hh', hl, hc, hw, ht⟩ |
    ⟨_, _, _, hh', _⟩ | ⟨_, hh', _⟩ <;> cases hh.symm.trans hh'
  · exact ⟨hl, hc, hw, ht⟩
  · exact absurd hoff (by decide)

/-- A completed read while `busy` = 0 put its value into `rdata` and changed nothing else. -/
theorem step_read_next {s t : State} {rest : List HostAction} {off size : Nat}
    (hh : s.host = .read off size :: rest) (hb : s.busy = false) (h : step s = .next t) :
    t = { s with host := rest, rdata := some { size := size, value := s.readValue off size } } := by
  rcases step_next_cases h with ⟨hh', _⟩ | ⟨_, _, _, hh', _, ⟨hb', _⟩ | ⟨_, ht⟩⟩ | ⟨_, _, _, _, hh', _⟩ |
    ⟨_, _, _, hh', _⟩ | ⟨_, hh', _⟩ <;> cases hh.symm.trans hh'
  · simp [hb] at hb'
  · exact ht

/-- A command that completes leaves the core not busy and the host's coming actions as they were. -/
theorem runCommand_keeps {w : Word} {s t : State} (h : runCommand w s = .next t) :
    t.busy = false ∧ t.host = s.host := by
  obtain ⟨u, hu, rfl⟩ := runCommand_next h
  refine ⟨rfl, ?_⟩
  unfold execWord at hu
  split at hu
  next i _ =>
    obtain ⟨_, _, _, _, hhost, _⟩ := exec_keeps i _ u hu
    simp [hhost]
  next =>
    obtain rfl := Host.Outcome.next.inj hu
    rfl

/-! ### The obligations -/

/-- Settles O46: such a write stores nothing, a reserved read is 0, and OUTCAP's write is its two fields. -/
theorem readOnlyAndReservedLocations : Obligations.ReadOnlyAndReservedLocations := by
  refine fun s rest off size v hl => ⟨fun hw => ?_, fun hr hb => ?_, fun hb => ?_⟩
  · have hc : regionAt off ≠ some .cmd := fun h => by simp [h, Region.hostWritable] at hw
    exact (step_write { s with host := _ } rfl hl hc (.inr hw)).trans
      (congrArg _ (State.hostStore_of_not_hostWritable _ size v hw))
  · rw [step_read s rest hb hl, s.readValue_reserved hl hr]
  · exact step_write { s with host := .write 0x008 4 v :: rest } rfl (by decide) (by decide) (.inl hb)

/-- Settles O47: a 32-bit read by its halves, and each write as a store of one or two elements. -/
theorem mixedWidthHalfAccess : Obligations.MixedWidthHalfAccess := by
  refine ⟨fun s b j _ => ?_, fun s i v hi => ?_, fun s b i v hi h => ?_, fun s j v hj => ?_⟩
  · dsimp only
    rw [show b + 2 * (2 * j + 1) = b + 4 * j + 2 by omega, show b + 2 * (2 * j) = b + 4 * j by omega]
    exact s.readValue_four_eq_append (b + 4 * j)
  · rw [s.hostStore_inBuf_half hi v]
    have hstore := s.mem.half?_storeHalves_elements 0x0400 i (vs := [v])
    exact ⟨(hstore i).trans (by simp), fun k hk => (hstore k).trans (if_neg (by simp; omega))⟩
  · exact s.readValue_of_half? h fun k hk => (isRam_iff _).2 (by omega)
  · rw [s.hostStore_inBuf_word hj v]
    have hstore := s.mem.half?_storeHalves_elements 0x0400 (2 * j) (vs := [v.extractLsb' 0 16, v.extractLsb' 16 16])
    refine ⟨(hstore _).trans (by simp), (hstore _).trans (by simp), fun k hk hk' => ?_⟩
    exact (hstore k).trans (if_neg (by simp; omega))

/-- Settles O48: no region of f32 admits a 16-bit access; reads and writes move whole elements. -/
theorem floatRegionsPassPatterns : Obligations.FloatRegionsPassPatterns := by
  refine fun s => ⟨fun off hoff size hsize => ?_, fun i hi => ⟨?_, ?_⟩, fun i hi => ?_, fun i x hi h => ?_,
    fun i x hi h => ?_, fun i x hi => ?_⟩
  · cases hl : legalAccess off size
    · rfl
    · obtain rfl := (legalAccess_size hl).resolve_left hsize
      have := (allowsHalf_iff off).1 ((legalAccess_half off).1 hl).2
      omega
  · exact s.readValue_cell s.coef (r := ⟨0x2000, 0x217F, .coef⟩) (by decide) (by decide) (fun _ _ => rfl) hi
  · exact s.readValue_cell s.dec.hist (r := ⟨0x2400, 0x257F, .hist⟩) (by decide) (by decide) (fun _ _ => rfl) hi
  · exact s.readValue_cell s.pack.acc (r := ⟨0x2800, 0x2A7F, .acc⟩) (by decide) (by decide) (fun _ _ => rfl) hi
  · exact s.readValue_of_word? h fun k hk => (isRam_iff _).2 (by omega)
  · exact s.readValue_of_word? h fun k hk => (isRam_iff _).2 (by omega)
  · rw [s.hostStore_decIn hi x]
    have hstore := s.mem.word?_storeWords_elements 0x1000 i (vs := [x])
    exact ⟨(hstore i).trans (by simp), fun k hk => (hstore k).trans (if_neg (by simp; omega))⟩

/-- Settles O49: a read changes `rdata` only, a store repeats without effect, and a command is run again. -/
theorem onlyCommandWritesHaveSideEffects : Obligations.OnlyCommandWritesHaveSideEffects := by
  refine ⟨fun s t rest off size hb h => ?_, fun s t rest off size v hoff h => ?_, fun s t rest w hb h => ?_⟩
  · obtain rfl := step_read_next (s := { s with host := _ }) rfl hb h
    rfl
  · obtain ⟨hl, hc, hw, rfl⟩ := step_write_next (s := { s with host := _ }) rfl hoff h
    refine ⟨?_, State.hostStore_eq _ off size v⟩
    rw [step_write _ (State.hostStore_host _ off size v) hl hc (by simpa using hw)]
    exact congrArg _ (State.hostStore_hostStore_same _ off size v rest)
  · rw [step_command_cons s _ w hb] at h
    obtain ⟨hbusy, hhost⟩ := runCommand_keeps h
    exact ⟨h, step_command t rest w hhost hbusy⟩

end Sys2Proof.Machine

/-! PROOFS. The opcode map against the decoder, the fields of an illegal word, and what a write to CMD runs
(30_encoding.md R102, R103, R104, R106, R107, R109), with the proofs of R106, R107 and R109. -/

namespace Sys2Proof

/-! ### The rows of the opcode map (R106) -/

/-- Every row tests the whole low byte. -/
theorem opcodeMap_mask_low_byte : ∀ r ∈ opcodeMap, r.mask &&& 0xFF#32 = 0xFF#32 := by decide

/-- No two rows have the same low byte in their match. -/
theorem opcodeMap_bits_low_byte_injective :
    ∀ r ∈ opcodeMap, ∀ r' ∈ opcodeMap, r.bits &&& 0xFF#32 = r'.bits &&& 0xFF#32 → r = r' := by decide

/-- A mnemonic names one row. -/
theorem opcodeMap_mnemonic_injective :
    ∀ r ∈ opcodeMap, ∀ r' ∈ opcodeMap, r.mnemonic = r'.mnemonic → r = r' := by decide

/-- The low byte of a word is that of each row that selects it. -/
theorem low_byte_of_selects {w : Word} {r : OpcodeRow} (hr : r ∈ opcodeMap) (h : w &&& r.mask = r.bits) :
    w &&& 0xFF#32 = r.bits &&& 0xFF#32 := by
  rw [← h, BitVec.and_assoc, opcodeMap_mask_low_byte r hr]

/-- The rows do not overlap. -/
theorem row_unique {w : Word} {r r' : OpcodeRow} (hr : r ∈ opcodeMap) (hr' : r' ∈ opcodeMap)
    (h : w &&& r.mask = r.bits) (h' : w &&& r'.mask = r'.bits) : r = r' :=
  opcodeMap_bits_low_byte_injective r hr r' hr'
    ((low_byte_of_selects hr h).symm.trans (low_byte_of_selects hr' h'))

/-- Some row selects the word, the five written out as the decoder tests them. -/
theorem exists_row_iff (w : Word) : (∃ r ∈ opcodeMap, w &&& r.mask = r.bits) ↔
    w &&& 0xFFFFFEFF#32 = 0x00000001#32 ∨ w = 0x00000002#32 ∨ w = 0x00000003#32 ∨
    w &&& 0xFFFE00FF#32 = 0x00000004#32 ∨ w &&& 0xFFFE00FF#32 = 0x00000005#32 := by
  have hones : w &&& 0xFFFFFFFF#32 = w := BitVec.and_allOnes
  simp only [opcodeMap, List.mem_cons, List.not_mem_nil, or_false, exists_eq_or_imp, exists_eq_left, hones]

/-- What a word decodes to has the mnemonic of a row that selects the word. -/
theorem exists_row_of_decode {w : Word} {i : Instr} (h : decode w = .ok i) :
    ∃ r ∈ opcodeMap, w &&& r.mask = r.bits ∧ i.mnemonic = r.mnemonic := by
  unfold decode at h
  split_ifs at h with hc hd hr hp hq <;> obtain rfl := Decoded.ok.inj h
  · exact ⟨opcodeMap[0], List.getElem_mem _, hc, rfl⟩
  · exact ⟨opcodeMap[1], List.getElem_mem _, by subst hd; rfl, rfl⟩
  · exact ⟨opcodeMap[2], List.getElem_mem _, by subst hr; rfl, rfl⟩
  · exact ⟨opcodeMap[3], List.getElem_mem _, hp, rfl⟩
  · exact ⟨opcodeMap[4], List.getElem_mem _, hq, rfl⟩

/-- A word is illegal exactly when no row selects it. -/
theorem decode_illegal_iff (w : Word) :
    (∃ e, decode w = .illegal e) ↔ ¬ ∃ r ∈ opcodeMap, w &&& r.mask = r.bits := by
  rw [exists_row_iff, decode]
  split_ifs <;> simp [*]

/-- A row selects a word exactly when the word decodes to a command of the row's mnemonic. -/
theorem selects_iff_decode {w : Word} {r : OpcodeRow} (hr : r ∈ opcodeMap) :
    w &&& r.mask = r.bits ↔ ∃ i, decode w = .ok i ∧ i.mnemonic = r.mnemonic := by
  constructor
  · intro h
    cases hd : decode w with
    | illegal e => exact absurd ⟨r, hr, h⟩ ((decode_illegal_iff w).1 ⟨e, hd⟩)
    | ok i =>
      obtain ⟨r', hr', h', hm⟩ := exists_row_of_decode hd
      exact ⟨i, rfl, row_unique hr hr' h h' ▸ hm⟩
  · rintro ⟨i, hd, hm⟩
    obtain ⟨r', hr', h', hm'⟩ := exists_row_of_decode hd
    exact opcodeMap_mnemonic_injective r' hr' r hr (hm'.symm.trans hm) ▸ h'

/-- Settles O3: the rows are those of the rule, each selects its own commands, and a word's low byte tells its row. -/
theorem decoderSelectsTheOpcodeRow : Obligations.DecoderSelectsTheOpcodeRow :=
  ⟨rfl, fun _ => ⟨fun _ hr => selects_iff_decode hr, fun _ hr _ hr' => row_unique hr hr'⟩⟩

/-! ### The fields of a word (R101 to R104, R107) -/

/-- Words that agree on a field agree on each of its bits. -/
theorem getLsbD_eq_of_extractLsb'_eq {x y : Word} {a k i : Nat} (h : x.extractLsb' a k = y.extractLsb' a k)
    (ha : a ≤ i) (hi : i < a + k) : x.getLsbD i = y.getLsbD i := by
  have hbit := congrArg (BitVec.getLsbD · (i - a)) h
  simpa [BitVec.getLsbD_extractLsb', show i - a < k by omega, Nat.add_sub_cancel' ha] using hbit

/-- Words are equal when they agree on OP, Z0, an operand of `n` bits and the Z bits above it. -/
theorem word_eq_iff_fields {n : Nat} (hn : n ≤ 24) (x y : Word) :
    x = y ↔ x.extractLsb' 0 4 = y.extractLsb' 0 4 ∧ x.extractLsb' 4 4 = y.extractLsb' 4 4 ∧
      x.extractLsb' 8 n = y.extractLsb' 8 n ∧ x.extractLsb' (8 + n) (24 - n) = y.extractLsb' (8 + n) (24 - n) := by
  refine ⟨by rintro rfl; simp, fun ⟨hop, hz0, hopd, hz⟩ => BitVec.eq_of_getLsbD_eq fun i hi => ?_⟩
  have hfield : i < 0 + 4 ∨ (4 ≤ i ∧ i < 4 + 4) ∨ (8 ≤ i ∧ i < 8 + n) ∨
      (8 + n ≤ i ∧ i < 8 + n + (24 - n)) := by omega
  rcases hfield with h | ⟨h, h'⟩ | ⟨h, h'⟩ | ⟨h, h'⟩
  · exact getLsbD_eq_of_extractLsb'_eq hop i.zero_le h
  · exact getLsbD_eq_of_extractLsb'_eq hz0 h h'
  · exact getLsbD_eq_of_extractLsb'_eq hopd h h'
  · exact getLsbD_eq_of_extractLsb'_eq hz h h'

/-- A row's match holds OP in its low four bits. -/
theorem extractLsb'_setWidth_low (op : BitVec 4) : (op.setWidth 32).extractLsb' 0 4 = op := by
  revert op; decide

/-- A row's match is 0 above OP. -/
theorem extractLsb'_setWidth_high (op : BitVec 4) {a k : Nat} (h : 4 ≤ a) :
    (op.setWidth 32).extractLsb' a k = 0#k := by
  ext i hi
  simp [BitVec.getLsbD_of_ge op (a + i) (by omega)]

/-- A mask of all but the `n` operand bits tests OP, Z0 and Z. -/
theorem and_mask_eq_iff_fields {n : Nat} (hn : n ≤ 24) {mask : Word}
    (hmask : mask.extractLsb' 0 4 = BitVec.allOnes 4 ∧ mask.extractLsb' 4 4 = BitVec.allOnes 4 ∧
      mask.extractLsb' 8 n = 0#n ∧ mask.extractLsb' (8 + n) (24 - n) = BitVec.allOnes (24 - n))
    (w : Word) (op : BitVec 4) : w &&& mask = op.setWidth 32 ↔
      w.extractLsb' 0 4 = op ∧ w.extractLsb' 4 4 = 0#4 ∧ w.extractLsb' (8 + n) (24 - n) = 0#(24 - n) := by
  obtain ⟨mop, mz0, mopd, mz⟩ := hmask
  rw [word_eq_iff_fields hn, extractLsb'_setWidth_low, extractLsb'_setWidth_high op (le_refl 4),
    extractLsb'_setWidth_high op (by decide : 4 ≤ 8), extractLsb'_setWidth_high op (by omega : 4 ≤ 8 + n)]
  simp only [BitVec.extractLsb'_and, mop, mz0, mopd, mz, BitVec.and_allOnes, BitVec.and_zero, true_and]

/-- Format F: one operand bit, FE (R103). -/
theorem selects_formatF_iff (w : Word) (op : BitVec 4) : w &&& 0xFFFFFEFF#32 = op.setWidth 32 ↔
    w.extractLsb' 0 4 = op ∧ w.extractLsb' 4 4 = 0#4 ∧ w.extractLsb' 9 23 = 0#23 :=
  and_mask_eq_iff_fields (n := 1) (by decide) (by decide) w op

/-- Format N: no operand, so the mask is the whole word (R102). -/
theorem selects_formatN_iff (w : Word) (op : BitVec 4) : w = op.setWidth 32 ↔
    w.extractLsb' 0 4 = op ∧ w.extractLsb' 4 4 = 0#4 ∧ w.extractLsb' 8 24 = 0#24 := by
  have h := and_mask_eq_iff_fields (n := 0) (by decide) (mask := BitVec.allOnes 32) (by decide) w op
  rwa [BitVec.and_allOnes] at h

/-- Format C: nine operand bits, CNT (R104). -/
theorem selects_formatC_iff (w : Word) (op : BitVec 4) : w &&& 0xFFFE00FF#32 = op.setWidth 32 ↔
    w.extractLsb' 0 4 = op ∧ w.extractLsb' 4 4 = 0#4 ∧ w.extractLsb' 17 15 = 0#15 :=
  and_mask_eq_iff_fields (n := 9) (by decide) (by decide) w op

/-- Some row selects the word: its OP is assigned and no Z0 or Z bit of its format is 1. -/
theorem exists_row_iff_fields (w : Word) : (∃ r ∈ opcodeMap, w &&& r.mask = r.bits) ↔
    w.extractLsb' 4 4 = 0#4 ∧
      ((w.extractLsb' 0 4 = 1#4 ∧ w.extractLsb' 9 23 = 0#23) ∨
       ((w.extractLsb' 0 4 = 2#4 ∨ w.extractLsb' 0 4 = 3#4) ∧ w.extractLsb' 8 24 = 0#24) ∨
       ((w.extractLsb' 0 4 = 4#4 ∨ w.extractLsb' 0 4 = 5#4) ∧ w.extractLsb' 17 15 = 0#15)) := by
  have create : w &&& 0xFFFFFEFF#32 = 0x00000001#32 ↔ _ := selects_formatF_iff w 1#4
  have destroy : w = 0x00000002#32 ↔ _ := selects_formatN_iff w 2#4
  have reset : w = 0x00000003#32 ↔ _ := selects_formatN_iff w 3#4
  have pframe : w &&& 0xFFFE00FF#32 = 0x00000004#32 ↔ _ := selects_formatC_iff w 4#4
  have dpush : w &&& 0xFFFE00FF#32 = 0x00000005#32 ↔ _ := selects_formatC_iff w 5#4
  rw [exists_row_iff, create, destroy, reset, pframe, dpush]
  simp only [and_left_comm (b := w.extractLsb' 4 4 = 0#4), ← and_or_left, or_and_right, or_assoc]

/-- The unassigned values of OP other than 0. -/
theorem six_le_toNat_iff : ∀ op : BitVec 4, 6 ≤ op.toNat ↔
    op ≠ 0#4 ∧ op ≠ 1#4 ∧ op ≠ 2#4 ∧ op ≠ 3#4 ∧ op ≠ 4#4 ∧ op ≠ 5#4 := by decide

/-- The illegal words by their fields (R107). -/
theorem decode_illegal_iff_fields (w : Word) : (∃ e, decode w = .illegal e) ↔
    w.extractLsb' 0 4 = 0#4 ∨ 6 ≤ (w.extractLsb' 0 4).toNat ∨ w.extractLsb' 4 4 ≠ 0#4 ∨
    (w.extractLsb' 0 4 = 1#4 ∧ w.extractLsb' 9 23 ≠ 0#23) ∨
    ((w.extractLsb' 0 4 = 2#4 ∨ w.extractLsb' 0 4 = 3#4) ∧ w.extractLsb' 8 24 ≠ 0#24) ∨
    ((w.extractLsb' 0 4 = 4#4 ∨ w.extractLsb' 0 4 = 5#4) ∧ w.extractLsb' 17 15 ≠ 0#15) := by
  rw [decode_illegal_iff, exists_row_iff_fields, six_le_toNat_iff]
  generalize w.extractLsb' 0 4 = op
  by_cases h : op = 0#4 ∨ op = 1#4 ∨ op = 2#4 ∨ op = 3#4 ∨ op = 4#4 ∨ op = 5#4
  · rcases h with rfl | rfl | rfl | rfl | rfl | rfl <;> simp [imp_iff_not_or]
  · push Not at h
    simp [h]

end Sys2Proof

namespace Sys2Proof.Machine

/-! ### What a write to CMD runs (R107, R109) -/

/-- An illegal word is a command whose only effects are the common start and the result code -4. -/
theorem runCommand_illegal {w : Word} {e : DecodeError} (h : decode w = .illegal e) (s : State) :
    runCommand w s = .next { s with
      cmdreg := w
      busy := false
      res := { result := 0xFFFC#16, ready := false, cskip := false, dwr := false, dskip := false } } := by
  simp only [runCommand, execWord, h]
  rfl

/-- The body of a command word by the comparisons of R109. -/
theorem execWord_eq_ite (w : Word) (s : State) : execWord w s =
    if w &&& 0xFFFFFEFF#32 = 0x00000001#32 then exec (.create (w.getLsbD 8)) s
    else if w = 0x00000002#32 then exec .destroy s
    else if w = 0x00000003#32 then exec .reset s
    else if w &&& 0xFFFE00FF#32 = 0x00000004#32 then exec (.pframe (w.extractLsb' 8 9).toNat) s
    else if w &&& 0xFFFE00FF#32 = 0x00000005#32 then exec (.dpush (w.extractLsb' 8 9).toNat) s
    else .next { s with res := { s.res with result := 0xFFFC#16 } } := by
  unfold execWord decode
  split_ifs <;> rfl

/-- Settles O4: the fields a row tests, and an illegal word's run on a core that is not busy. -/
theorem illegalWordsAndTheirEffect : Obligations.IllegalWordsAndTheirEffect := by
  refine fun w => ⟨decode_illegal_iff_fields w, fun s rest e he hb => ?_⟩
  rw [step_command_cons s rest w hb, runCommand_illegal he, ← hb]

/-- Settles O5: the step is the command's run, and its body is the rule's chain of comparisons. -/
theorem commandWriteDecodesAndDispatches : Obligations.CommandWriteDecodesAndDispatches := by
  intro s rest w hb
  rw [step_command_cons s rest w hb, runCommand, execWord_eq_ite]
  rfl

end Sys2Proof.Machine

/-! PROOFS. One sample of the Decimator, a run over a sequence and over calls, and DPUSH (40_decimator.md R132 to
R142), with the proofs of R132 and R133, of R136, of R139 and of R142. -/

namespace Sys2Proof.Machine

/-! ### One sample (R132, R133) -/

/-- A DecStep leaves the history that the insertion leaves. -/
theorem decStep_hist (coef : Vector F32 96) (n : Nat) (d : DecimatorState) (x : F32) :
    (decStep coef n d x).1.hist = (decInsert d x).hist := by
  unfold decStep; split <;> rfl

/-- A DecStep advances `widx` mod 96. -/
theorem decStep_widx (coef : Vector F32 96) (n : Nat) (d : DecimatorState) (x : F32) :
    (decStep coef n d x).1.widx.val = (d.widx.val + 1) % 96 := by
  unfold decStep; split <;> rfl

/-- A DecStep advances `phase` mod 6. -/
theorem decStep_phase (coef : Vector F32 96) (n : Nat) (d : DecimatorState) (x : F32) :
    (decStep coef n d x).1.phase.val = (d.phase.val + 1) % 6 := by
  by_cases h : d.phase.val + 1 < 6
  · rw [decStep_quiet coef n d x h]
    exact (Nat.mod_eq_of_lt h).symm
  · have hwrap : d.phase.val + 1 = 6 := by omega
    rw [decStep_emit coef n d x h, hwrap]
    rfl

/-- A DecStep emits exactly when it completes a decimation cycle, over the window of the state it leaves. -/
theorem decStep_emission (coef : Vector F32 96) (n : Nat) (d : DecimatorState) (x : F32) :
    (decStep coef n d x).2 =
      if d.phase.val + 1 = 6 then some (firDot coef n (window (decStep coef n d x).1)) else none := by
  by_cases h : d.phase.val + 1 < 6
  · rw [decStep_quiet coef n d x h, if_neg h.ne]
  · rw [decStep_emit coef n d x h, if_pos (by omega)]
    rfl

/-- Each value of the window by its place. -/
theorem window_getElem? (d : DecimatorState) {k : Nat} (h : k < 96) :
    (window d)[k]? = some (d.hist[(d.widx.val + k) % 96]'(Nat.mod_lt _ (by decide))) := by
  rw [List.getElem?_eq_getElem (by rwa [window_length]), window_getElem]

/-- Settles O19: the insertion cell by cell, the two counters, and the emission over the window that is left. -/
theorem decStepInsertsAdvancesAndEmits : Obligations.DecStepInsertsAdvancesAndEmits := by
  refine fun coef n d x => ⟨fun i hi => ?_, decStep_widx coef n d x, ?_, fun h => ?_, fun h => ?_⟩
  · simp only [decStep_hist, decInsert_hist, eq_comm]
  · rw [decStep_phase]
    split_ifs <;> omega
  · rw [decStep_emission, if_neg h]
  · exact ⟨window _, by rw [decStep_emission, if_pos h], window_length _, fun _ => window_getElem? _⟩

/-! ### A sequence of samples (R135, R136) -/

/-- The first sample's DecStep, and the rest from the state and the emission number it leaves. -/
theorem decProcess_cons (coef : Vector F32 96) (n : Nat) (d : DecimatorState) (x : F32) (xs : List F32) :
    decProcess coef d n (x :: xs) =
      let r := decStep coef n d x
      let rest := decProcess coef r.1 (n + r.2.toList.length) xs
      { rest with out := r.2.toList ++ rest.out } := by
  by_cases h : d.phase.val + 1 < 6
  · rw [decProcess_quiet coef n d x xs h, decStep_quiet coef n d x h]
    rfl
  · rw [decProcess_emit coef n d x xs h, decStep_emit coef n d x h]
    rfl

/-- A DecProcess advances `phase` by the number of samples, mod 6. -/
theorem decProcess_phase (coef : Vector F32 96) (xs : List F32) (d : DecimatorState) (n : Nat) :
    (decProcess coef d n xs).dec.phase.val = (d.phase.val + xs.length) % 6 := by
  induction xs generalizing d n with
  | nil => exact (Nat.mod_eq_of_lt d.phase.isLt).symm
  | cons x xs ih =>
    simp only [decProcess_cons, ih, decStep_phase, List.length_cons]
    omega

/-- A DecProcess advances `widx` by the number of samples, mod 96. -/
theorem decProcess_widx (coef : Vector F32 96) (xs : List F32) (d : DecimatorState) (n : Nat) :
    (decProcess coef d n xs).dec.widx.val = (d.widx.val + xs.length) % 96 := by
  induction xs generalizing d n with
  | nil => exact (Nat.mod_eq_of_lt d.widx.isLt).symm
  | cons x xs ih =>
    simp only [decProcess_cons, ih, decStep_widx, List.length_cons]
    omega

/-- Settles O24: the three counts, and the bounds because `phase` is at most 5. -/
theorem decProcessCounts : Obligations.DecProcessCounts := by
  intro coef n d xs
  have hphase := d.phase.isLt
  have hout := decProcess_out_length coef xs d n
  exact ⟨hout, decProcess_phase coef xs d n, decProcess_widx coef xs d n, by omega, by omega⟩

/-! ### Calls one after another (R139) -/

/-- A further call: DecProcess from where `r` stopped, its outputs after those of `r`. -/
def DecRun.extend (coef : Vector F32 96) (r : DecRun) (xs : List F32) : DecRun :=
  let r' := decProcess coef r.dec r.emissions xs
  { dec := r'.dec, emissions := r'.emissions, out := r.out ++ r'.out }

/-- A run over a then b is the run over a, extended by b. -/
theorem decProcess_append (coef : Vector F32 96) (a b : List F32) (d : DecimatorState) (n : Nat) :
    decProcess coef d n (a ++ b) = (decProcess coef d n a).extend coef b := by
  induction a generalizing d n with
  | nil => rfl
  | cons x a ih => simp only [List.cons_append, decProcess_cons, ih, DecRun.extend, List.append_assoc]

@[simp] theorem DecRun.extend_nil (coef : Vector F32 96) (r : DecRun) : r.extend coef [] = r := by
  simp [DecRun.extend]

/-- Two further calls are one call over both sequences. -/
theorem DecRun.extend_append (coef : Vector F32 96) (r : DecRun) (a b : List F32) :
    r.extend coef (a ++ b) = (r.extend coef a).extend coef b := by
  simp only [DecRun.extend, decProcess_append, List.append_assoc]

/-- Any list of further calls is one call over their concatenation. -/
theorem DecRun.foldl_extend (coef : Vector F32 96) (calls : List (List F32)) (r : DecRun) :
    calls.foldl (DecRun.extend coef) r = r.extend coef calls.flatten := by
  induction calls generalizing r with
  | nil => simp
  | cons xs calls ih => rw [List.foldl_cons, ih, List.flatten_cons, DecRun.extend_append]

/-- Settles O26: a split in two is `decProcess_append`, a list of calls an extension of the run over no samples. -/
theorem callBoundariesDoNotShow : Obligations.CallBoundariesDoNotShow :=
  ⟨fun coef d n a b => decProcess_append coef a b d n,
    fun coef d n calls => DecRun.foldl_extend coef calls (decProcess coef d n [])⟩

/-! ### DPUSH (R142) -/

/-- Without a session, DPUSH raises the handle error. -/
theorem exec_dpush_of_no_session {s : State} (n : Nat) (hv : s.valid = false) :
    exec (.dpush n) s = .next (s.raise codeHandle) := by
  simpa [exec, hv] using execDpush_cases n s

/-- Beyond 480 samples, DPUSH raises the input error. -/
theorem exec_dpush_of_overlong {s : State} {n : Nat} (hv : s.valid = true) (hn : 480 < n) :
    exec (.dpush n) s = .next (s.raise codeInput) := by
  simpa [exec, hv, hn, hn.not_ge] using execDpush_cases n s

/-- On an entry never written, DPUSH faults. -/
theorem exec_dpush_of_unwritten {s : State} {n : Nat} (hv : s.valid = true) (hn : n ≤ 480)
    (hx : s.decinInput n = none) : exec (.dpush n) s = .fault (.hostProtocol .unwrittenInput) := by
  simpa [exec, hv, hn, hn.not_gt, hx] using execDpush_cases n s

/-- An accepted DPUSH takes over the run's Decimator, stores its outputs, and succeeds. -/
theorem exec_dpush_of_written {s : State} {n : Nat} {xs : List F32} (hv : s.valid = true) (hn : n ≤ 480)
    (hx : s.decinInput n = some xs) :
    exec (.dpush n) s = .next ((s.withDecRun (s.decRun xs)).storeDecOut (s.decRun xs).out).succeed := by
  simpa [exec, hv, hn, hn.not_gt, hx] using execDpush_cases n s

/-- Settles O28: DPUSH's four ends, with what the premises say of `decin` as the result of its gathering. -/
theorem dpushRunsTheDecimator : Obligations.DpushRunsTheDecimator := fun s n =>
  ⟨exec_dpush_of_no_session n, exec_dpush_of_overlong,
    fun hv hn hx => exec_dpush_of_unwritten hv hn ((s.decinInput_eq_none n).2 hx),
    fun xs hv hn hl hx => exec_dpush_of_written hv hn ((s.decinInput_eq_some n xs).2 ⟨hl, hx⟩)⟩

end Sys2Proof.Machine

/-! PROOFS. Patterns built from a sign and low bits, exact roundings, and the proofs of the sample conversions: i2f
(41_frame_packer.md R171) and f2s (R172). -/

namespace Sys2Proof.Machine

/-! ### The fields of a pattern built from its sign and its low bits -/

/-- The number a pattern built from a sign and 31 low bits holds. -/
theorem F32.toNat_ofSignBits (b : Bool) {low : Nat} (h : low < 2 ^ 31) :
    (F32.ofSignBits b low).toNat = (if b then 2 ^ 31 else 0) + low := by
  rw [F32.ofSignBits, BitVec.toNat_ofNat, Nat.mod_eq_of_lt]
  split_ifs <;> omega

theorem F32.sign_ofSignBits (b : Bool) {low : Nat} (h : low < 2 ^ 31) :
    F32.sign (F32.ofSignBits b low) = b := by
  rw [F32.sign, ← BitVec.msb_eq_getLsbD_last, BitVec.msb_eq_decide, F32.toNat_ofSignBits b h]
  cases b
  · simpa using h
  · simp

theorem F32.expField_ofSignBits (b : Bool) {low : Nat} (h : low < 2 ^ 31) :
    F32.expField (F32.ofSignBits b low) = low / 2 ^ 23 := by
  rw [F32.expField, BitVec.extractLsb'_toNat, F32.toNat_ofSignBits b h, Nat.shiftRight_eq_div_pow]
  split_ifs <;> omega

theorem F32.fraction_ofSignBits (b : Bool) {low : Nat} (h : low < 2 ^ 31) :
    F32.fraction (F32.ofSignBits b low) = low % 2 ^ 23 := by
  rw [F32.fraction, BitVec.extractLsb'_toNat, F32.toNat_ofSignBits b h, Nat.shiftRight_eq_div_pow]
  split_ifs <;> omega

/-- Low bits `q * 2^23 + m` with a 24-bit significand `m` are a normal value: `m` units of `2^q`. -/
theorem F32.magnitude_ofSignBits (b : Bool) {m q : Nat} (hm : 2 ^ 23 ≤ m) (hm' : m < 2 ^ 24) (hq : q ≤ 253) :
    F32.magnitude (F32.ofSignBits b (q * 2 ^ 23 + m)) = m * 2 ^ q := by
  have he : (q * 2 ^ 23 + m) / 2 ^ 23 = q + 1 := by omega
  have hf : 2 ^ 23 + (q * 2 ^ 23 + m) % 2 ^ 23 = m := by omega
  rw [F32.magnitude, F32.expField_ofSignBits b (by omega), F32.fraction_ofSignBits b (by omega), he, hf,
    if_neg (Nat.succ_ne_zero q), Nat.add_sub_cancel]

/-! ### Rounding what needs none -/

/-- A multiple of the unit is not rounded. -/
theorem roundNearestEven_mul (m q : Nat) : roundNearestEven (m * 2 ^ q) q = m := by
  have h : 2 ^ q ≠ 0 := (Nat.two_pow_pos q).ne'
  simp [roundNearestEven, h.symm]

/-- A value with a 24-bit significand keeps it. -/
theorem roundLow_of_normal {m q : Nat} (hm : 2 ^ 23 ≤ m) (hm' : m < 2 ^ 24) (hq : q ≤ 253) :
    roundLow (m * 2 ^ q) 0 = q * 2 ^ 23 + m := by
  have hlog : Nat.log2 (m * 2 ^ q) = q + 23 := by
    rw [Nat.log2_eq_iff (by positivity), Nat.add_assoc, Nat.add_comm q, Nat.add_comm q, pow_add, pow_add]
    exact ⟨Nat.mul_le_mul_right _ hm, Nat.mul_lt_mul_of_pos_right hm' (by positivity)⟩
  simp only [roundLow, hlog, Nat.add_sub_cancel, Nat.zero_max, Nat.sub_zero, roundNearestEven_mul]
  omega

/-- An integer of at most 24 bits, other than 0, in units of 2^-149 as a 24-bit significand. -/
theorem exists_normal_of_lt {n : Nat} (h0 : n ≠ 0) (h : n < 2 ^ 24) :
    ∃ m q, 2 ^ 23 ≤ m ∧ m < 2 ^ 24 ∧ q ≤ 149 ∧ n * 2 ^ 149 = m * 2 ^ q := by
  have hlog : Nat.log2 n < 24 := (Nat.log2_lt h0).2 h
  have hscale : 2 ^ 24 = 2 ^ (Nat.log2 n + 1) * 2 ^ (23 - Nat.log2 n) := by rw [← pow_add]; congr 1; omega
  refine ⟨n * 2 ^ (23 - Nat.log2 n), Nat.log2 n + 126, ?_, ?_, by omega, ?_⟩
  · calc 2 ^ 23 = 2 ^ Nat.log2 n * 2 ^ (23 - Nat.log2 n) := by rw [← pow_add]; congr 1; omega
      _ ≤ _ := Nat.mul_le_mul_right _ (Nat.log2_self_le h0)
  · rw [hscale]
    exact Nat.mul_lt_mul_of_pos_right Nat.lt_log2_self (by positivity)
  · rw [mul_assoc, ← pow_add]; congr 2; omega

/-! ### From i16 to binary32 (R171) -/

/-- The pattern of an i16 other than 0, by its 24-bit significand. -/
theorem i2f_of_ne_zero {v : Half} (h : v ≠ 0#16) :
    ∃ m q, 2 ^ 23 ≤ m ∧ m < 2 ^ 24 ∧ q ≤ 149 ∧ v.toInt.natAbs * 2 ^ 149 = m * 2 ^ q ∧
      i2f v = F32.ofSignBits (decide (v.toInt < 0)) (q * 2 ^ 23 + m) := by
  have h0 : v.toInt.natAbs ≠ 0 := by simpa [Int.natAbs_eq_zero, ← BitVec.toInt_inj] using h
  have hlt : v.toInt.natAbs < 2 ^ 24 := by
    have := BitVec.toInt_lt (x := v)
    have := BitVec.le_toInt v
    omega
  obtain ⟨m, q, hm, hm', hq, e⟩ := exists_normal_of_lt h0 hlt
  refine ⟨m, q, hm, hm', hq, e, ?_⟩
  rw [i2f, e, roundLow_of_normal hm hm' (by omega)]

/-- Settles O31: 0 is a closed case; every other i16 has a 24-bit significand, which the one rounding keeps. -/
theorem intToFloatIsExact : Obligations.IntToFloatIsExact := by
  intro v
  by_cases hv : v = 0#16
  · subst hv
    decide
  obtain ⟨m, q, hm, hm', hq, e, hi⟩ := i2f_of_ne_zero hv
  refine ⟨?_, ?_, fun h => absurd h hv⟩
  · rw [hi, F32.isFinite, F32.expField_ofSignBits _ (by omega)]
    simp only [bne_iff_ne]
    omega
  · rw [hi, F32.value, F32.sign_ofSignBits _ (by omega), F32.magnitude_ofSignBits _ hm hm' (by omega), ← e]
    split_ifs with hneg <;> simp only [decide_eq_true_eq] at hneg <;> omega

/-! ### From binary32 to i16 (R172) -/

theorem f2s_of_isNaN {x : F32} (h : F32.isNaN x = true) : f2s x = 0#16 := if_pos h

/-- An infinity is no NaN. -/
theorem F32.isNaN_eq_false_of_isInf {x : F32} (h : F32.isInf x = true) : F32.isNaN x = false := by
  simp only [F32.isInf, Bool.and_eq_true, beq_iff_eq] at h
  simp [F32.isNaN, h.2]

theorem f2s_of_isInf {x : F32} (h : F32.isInf x = true) :
    f2s x = if F32.sign x then BitVec.ofInt 16 (-32768) else 32767#16 := by
  simp [f2s, F32.isNaN_eq_false_of_isInf h, h]

/-- A finite value saturates or is truncated. -/
theorem f2s_of_isFinite {x : F32} (h : F32.isFinite x = true) :
    f2s x = if 32767 * 2 ^ 149 ≤ F32.value x then 32767#16
      else if F32.value x ≤ -32768 * 2 ^ 149 then BitVec.ofInt 16 (-32768)
      else BitVec.ofInt 16 ((F32.value x).tdiv (2 ^ 149)) := by
  have hexp : (F32.expField x == 255) = false := by simpa [F32.isFinite] using h
  simp [f2s, F32.isNaN, F32.isInf, hexp]

/-- Division rounded toward zero: the quotient is no larger in size than the exact one, by less than 1, and of its
sign or 0. -/
theorem tdiv_rounds_toward_zero (a : Int) {k : Nat} (hk : 0 < k) :
    (a.tdiv k * k).natAbs ≤ a.natAbs ∧ a.natAbs < ((a.tdiv k).natAbs + 1) * k ∧ 0 ≤ a.tdiv k * a := by
  have habs : (a.tdiv k).natAbs = a.natAbs / k := Int.natAbs_tdiv a k
  refine ⟨?_, ?_, ?_⟩
  · rw [Int.natAbs_mul, habs, Int.natAbs_natCast]
    exact Nat.div_mul_le_self _ _
  · rw [habs]
    exact Nat.lt_mul_of_div_lt (Nat.lt_succ_self _) hk
  · obtain ⟨n, rfl | rfl⟩ := a.eq_nat_or_neg
    · exact mul_nonneg (Int.tdiv_nonneg (by omega) (by omega)) (by omega)
    · rw [Int.neg_tdiv, neg_mul_neg]
      exact mul_nonneg (Int.tdiv_nonneg (by omega) (by omega)) (by omega)

/-- A value inside the i16 range truncates to the integer of the pattern. -/
theorem toInt_f2s_of_inside {x : F32} (h : F32.isFinite x = true) (hlo : -32768 * 2 ^ 149 < F32.value x)
    (hhi : F32.value x < 32767 * 2 ^ 149) : (f2s x).toInt = (F32.value x).tdiv (2 ^ 149) := by
  have hq : ((F32.value x).tdiv (2 ^ 149)).natAbs < 2 ^ 15 := by
    rw [Int.natAbs_tdiv]
    exact Nat.div_lt_of_lt_mul (show _ < 2 ^ 149 * 2 ^ 15 by omega)
  rw [f2s_of_isFinite h, if_neg hhi.not_ge, if_neg hlo.not_ge]
  exact BitVec.toInt_ofInt_eq_self (by decide) (by omega) (by omega)

/-- Settles O32: one lemma per kind of pattern, and for a finite one the three ranges of its value. -/
theorem floatToIntSaturatesAndTruncates : Obligations.FloatToIntSaturatesAndTruncates := by
  refine fun x => ⟨f2s_of_isNaN, fun h => ?_, fun h => ⟨fun hhi => ?_, fun hlo => ?_, fun hlo hhi => ?_⟩⟩
  · rw [f2s_of_isInf h]
    cases F32.sign x <;> decide
  · rw [f2s_of_isFinite h, if_pos hhi]
    decide
  · rw [f2s_of_isFinite h, if_neg (by omega), if_pos hlo]
    decide
  · rw [toInt_f2s_of_inside h hlo hhi]
    exact tdiv_rounds_toward_zero (F32.value x) (k := 2 ^ 149) (by decide)

end Sys2Proof.Machine

/-! PROOFS. What a PFRAME ends in, what an accepted frame does to the RAM buffers, and the proofs of PFRAME's effect
(R181), of its count checks (R174), of the clamp (R175) and of the zero padding (R186). -/

namespace Sys2Proof.Machine

/-! ### The four ends of a PFRAME (R181) -/

/-- Without a session, PFRAME raises the handle error. -/
theorem exec_pframe_of_no_session {s : State} (n : Nat) (hv : s.valid = false) :
    exec (.pframe n) s = .next (s.raise codeHandle) := by
  simpa [exec, hv] using execPframe_cases n s

/-- On an empty frame, PFRAME raises the input error. -/
theorem exec_pframe_zero {s : State} (hv : s.valid = true) : exec (.pframe 0) s = .next (s.raise codeInput) := by
  simpa [exec, hv] using execPframe_cases 0 s

/-- On an entry never written, PFRAME faults. -/
theorem exec_pframe_of_unwritten {s : State} {n : Nat} (hv : s.valid = true) (hn : n ≠ 0)
    (hx : s.frameInput n = none) : exec (.pframe n) s = .fault (.hostProtocol .unwrittenInput) := by
  simpa [exec, hv, hn, hx] using execPframe_cases n s

/-- An accepted PFRAME runs the assembled frame. -/
theorem exec_pframe_of_written {s : State} {n : Nat} {xs : List Half} (hv : s.valid = true) (hn : n ≠ 0)
    (hx : s.frameInput n = some xs) : exec (.pframe n) s = .next (s.runFrame (assembleFrame xs)) := by
  simpa [exec, hv, hn, hx] using execPframe_cases n s

/-- Settles O38: PFRAME's four ends, with what the premises say of `inbuf` as the result of its gathering. -/
theorem pframeRunsOneFrame : Obligations.PframeRunsOneFrame := by
  refine fun s n => ⟨exec_pframe_of_no_session n, fun hv hn => hn ▸ exec_pframe_zero hv, fun hv hn hx => ?_,
    fun xs hv hn hl hx => ?_⟩
  · exact exec_pframe_of_unwritten hv (by omega) ((s.frameInput_eq_none n).2 hx)
  · rw [exec_pframe_of_written hv (by omega) ((s.frameInput_eq_some n xs).2 ⟨hl, hx⟩), State.runFrame_eq]
    simp only [decide_eq_true_eq]
    rfl

/-! ### The length of a frame (R174, R175) -/

/-- Settles O16: the count checks of the two commands. -/
theorem badCountsRaiseInput : Obligations.BadCountsRaiseInput :=
  fun _ _ hv => ⟨exec_pframe_zero hv, exec_dpush_of_overlong hv⟩

/-- Beyond 480 entries a PFRAME consumes no more. -/
theorem State.frameInput_of_le (s : State) {n : Nat} (h : 480 ≤ n) : s.frameInput n = s.frameInput 480 := by
  rw [State.frameInput, frameLength, Nat.min_eq_right h]
  rfl

/-- Settles O34: both lengths pass the check for 0 and consume the same entries, so they come to the same end. -/
theorem overLengthFrameIsClamped : Obligations.OverLengthFrameIsClamped := by
  intro s n hn _
  have hx : s.frameInput n = s.frameInput 480 := s.frameInput_of_le (by omega)
  rcases Bool.eq_false_or_eq_true s.valid with hv | hv
  · cases hx' : s.frameInput 480 with
    | none =>
      rw [exec_pframe_of_unwritten hv (by omega) (hx.trans hx'), exec_pframe_of_unwritten hv (by decide) hx']
    | some xs =>
      rw [exec_pframe_of_written hv (by omega) (hx.trans hx'), exec_pframe_of_written hv (by decide) hx']
  · rw [exec_pframe_of_no_session n hv, exec_pframe_of_no_session 480 hv]

/-! ### A frame over another memory -/

/-- A byte that two memories agree on is one they agree on after the same store, made or skipped. -/
theorem Memory.byte?_storeHalves_or_skip_congr {m m' : Memory} {b : Nat} (h : m'.byte? b = m.byte? b) (p : Prop)
    [Decidable p] (a : Nat) (vs : List Half) :
    (if p then m'.storeHalves a vs else m').byte? b = (if p then m.storeHalves a vs else m).byte? b := by
  split_ifs
  · simp only [Memory.storeHalves, Memory.byte?_storeBytes, h]
  · exact h

/-- A byte below a store, made or skipped, reads as before. -/
theorem Memory.byte?_storeHalves_or_skip_of_lt (m : Memory) {a b : Nat} (h : b < a) (p : Prop) [Decidable p]
    (vs : List Half) : (if p then m.storeHalves a vs else m).byte? b = m.byte? b := by
  split_ifs
  · exact m.byte?_storeHalves_of_outside a b vs (.inl h)
  · rfl

/-- What an accepted frame stores (R178, R180), over any memory: the denoised frame where it is delivered, then the
chunk where one is completed and delivered. -/
def State.storeFrame (s : State) (x : Vector F32 480) (m : Memory) : Memory :=
  let y := (s.denoiseStage x).1
  let delivered := if s.fe = true ∧ 480 ≤ s.dcap.toNat then m.storeHalves (denBufOffset 0) (y.toList.map f2s) else m
  if 160 ≤ s.pack.filled.val + 80 ∧ 160 ≤ s.ccap.toNat then
    delivered.storeHalves (chunkBufOffset 0)
      ((packStep s.pack (s.decRun y.toList).out).1.acc.toList.map f2s)
  else delivered

/-- An accepted frame makes its stores. -/
theorem State.runFrame_mem (s : State) (x : Vector F32 480) : (s.runFrame x).mem = s.storeFrame x s.mem := by
  rw [State.runFrame_eq, State.storeFrame, State.denoiseStage_fst]
  rfl

/-- Over another memory an accepted frame makes the same stores, and all else it does is the same: it reads no byte of
memory once it is assembled. -/
theorem State.runFrame_withMem (s : State) (m : Memory) (x : Vector F32 480) :
    { s with mem := m }.runFrame x = { s.runFrame x with mem := s.storeFrame x m } := by
  simp only [State.runFrame_eq, State.storeFrame, State.denoiseStage_fst]
  rfl

/-- A byte that two memories agree on is one they agree on after the stores of a frame. -/
theorem State.byte?_storeFrame_congr (s : State) (x : Vector F32 480) {m m' : Memory} {a : Nat}
    (h : m'.byte? a = m.byte? a) : (s.storeFrame x m').byte? a = (s.storeFrame x m).byte? a :=
  Memory.byte?_storeHalves_or_skip_congr (Memory.byte?_storeHalves_or_skip_congr h _ _ _) _ _ _

/-- The stores of a frame lie in `chunkbuf` and `denbuf`, above `inbuf`. -/
theorem State.byte?_storeFrame_of_lt (s : State) (x : Vector F32 480) (m : Memory) {a : Nat} (h : a < 0x0800) :
    (s.storeFrame x m).byte? a = m.byte? a :=
  (Memory.byte?_storeHalves_or_skip_of_lt _ h _ _).trans
    (Memory.byte?_storeHalves_or_skip_of_lt m (h.trans (by decide)) _ _)

/-! ### A short frame (R186) -/

/-- Padding a frame with the integer 0 is padding it with +0.0 (R171, R173). -/
theorem assembleFrame_append_zeros (xs : List Half) (k : Nat) :
    assembleFrame (xs ++ List.replicate k 0#16) = assembleFrame xs := by
  have hzero : i2f 0#16 = F32.zero := by decide
  refine Vector.ext fun i hi => ?_
  rw [assembleFrame_getElem, assembleFrame_getElem, List.getElem?_append, List.getElem?_replicate]
  split_ifs with h h'
  · rfl
  · simp [hzero, List.getElem?_eq_none (not_lt.1 h)]
  · simp [List.getElem?_eq_none (not_lt.1 h)]

/-- An entry of `inbuf` depends on its two bytes only. -/
theorem State.inbuf?_congr {s z : State} {i : Nat}
    (h : ∀ k < 2, z.mem.byte? (inBufOffset i + k) = s.mem.byte? (inBufOffset i + k)) : z.inbuf? i = s.inbuf? i :=
  Memory.half?_congr (h 0 (by decide)) (h 1 (by decide))

/-- The full frame consumes what the short one does, and the zeros after it. -/
theorem State.frameInput_zero_padded {s z : State} {n : Nat} {xs : List Half} (hn : n < 480)
    (hx : s.frameInput n = some xs) (hzero : ∀ i < 480, n ≤ i → z.inbuf? i = some 0#16)
    (hsame : ∀ i < n, z.inbuf? i = s.inbuf? i) :
    z.frameInput 480 = some (xs ++ List.replicate (480 - n) 0#16) := by
  obtain ⟨hl, hx⟩ := (s.frameInput_eq_some n xs).1 hx
  have hl : xs.length = n := by omega
  refine (z.frameInput_eq_some 480 _).2 ⟨by simp; omega, fun i hi => ?_⟩
  rw [List.getElem_append]
  split_ifs with h
  · rw [hsame i (by omega), hx i h]
  · rw [List.getElem_replicate]
    exact hzero i (by simp at hi; omega) (by omega)

/-- Settles O44: the two commands raise alike without a session; in one they run the same frame, over two memories
that differ in the padded entries only, where a frame stores nothing. -/
theorem shortFrameEqualsZeroPaddedFrame : Obligations.ShortFrameEqualsZeroPaddedFrame := by
  intro s z n hn hn' hz hzero hout t ht
  obtain ⟨m, rfl⟩ : ∃ m, z = { s with mem := m } := ⟨z.mem, hz⟩
  rcases Bool.eq_false_or_eq_true s.valid with hv | hv
  · cases hx : s.frameInput n with
    | none => exact absurd (ht.symm.trans (exec_pframe_of_unwritten hv (by omega) hx)) nofun
    | some xs =>
      obtain rfl := Host.Outcome.next.inj (ht.symm.trans (exec_pframe_of_written hv (by omega) hx))
      have hsame : ∀ i < n, State.inbuf? { s with mem := m } i = s.inbuf? i := fun i hi =>
        State.inbuf?_congr fun k hk => hout _ (by simp only [inBufOffset, inBufBase]; omega)
      have hpad := State.frameInput_zero_padded hn' hx hzero hsame
      refine ⟨_, exec_pframe_of_written hv (by decide) hpad, ?_⟩
      rw [assembleFrame_append_zeros, State.runFrame_withMem, State.runFrame_mem]
      dsimp only
      exact ⟨rfl, fun a ha => s.byte?_storeFrame_congr _ (hout a ha), fun a _ ha =>
        ⟨s.byte?_storeFrame_of_lt _ _ (by omega), s.byte?_storeFrame_of_lt _ _ (by omega)⟩⟩
  · obtain rfl := Host.Outcome.next.inj (ht.symm.trans (exec_pframe_of_no_session n hv))
    exact ⟨_, exec_pframe_of_no_session 480 hv, rfl, hout, fun _ _ _ => ⟨rfl, rfl⟩⟩

end Sys2Proof.Machine

/-! PROOFS. What the session commands leave (42_session.md), with the proofs of CREATE's effect (R211), of RESET's
(R212), of DESTROY's (R213) and of a repeated DESTROY (R216). -/

namespace Sys2Proof.Machine

/-! ### CREATE (R211) -/

/-- Counting an allocation draw changes its counter, where a draw is made, and nothing else. -/
theorem State.countAlloc_eq (s : State) : s.countAlloc =
    { s with draws := { s.draws with alloc := if s.allocCanFail then s.draws.alloc + 1 else s.draws.alloc } } := by
  unfold State.countAlloc
  split <;> rfl

/-- CREATE ends any session, and starts one with its FE unless the allocation fails. -/
theorem exec_create (fe : Bool) (s : State) : exec (.create fe) s = .next { s.endSession.countAlloc with
    valid := !s.allocDrawFails fe
    fe := !s.allocDrawFails fe && fe
    res := { s.res with result := if s.allocDrawFails fe then codeAlloc else codeOk } } := by
  rcases execCreate_cases fe s with ⟨h, e⟩ | ⟨h, e⟩ <;>
    (rw [h, exec, e, State.countAlloc_eq]; rfl)

/-- Settles O8: CREATE's effect, with the end of a session and the allocation draw written out. -/
theorem createStartsAClearedSession : Obligations.CreateStartsAClearedSession := by
  intro fe s
  rw [exec_create, State.countAlloc_eq]
  rfl

/-! ### RESET (R212) -/

/-- Without a session, RESET raises the handle error. -/
theorem exec_reset_of_no_session {s : State} (hv : s.valid = false) :
    exec .reset s = .next (s.raise codeHandle) := by
  simpa [exec, hv] using execReset_cases s

/-- In a session, RESET clears the Decimator and the Packer, and succeeds. -/
theorem exec_reset_of_session {s : State} (hv : s.valid = true) : exec .reset s = .next s.clearSession.succeed := by
  simpa [exec, hv] using execReset_cases s

/-- Settles O9: RESET's two ends. -/
theorem resetClearsTheSession : Obligations.ResetClearsTheSession :=
  fun _ => ⟨exec_reset_of_session, exec_reset_of_no_session⟩

/-! ### DESTROY (R213, R216) -/

/-- DESTROY ends any session, and succeeds. -/
theorem exec_destroy (s : State) : exec .destroy s = .next s.endSession.succeed := rfl

/-- Settles O10: the one end of DESTROY, with the end of a session written out. -/
theorem destroyEndsTheSession : Obligations.DestroyEndsTheSession := exec_destroy

/-- A DESTROY from its word to `busy <- 0`: the session's end, the command register, and a result of 0 without
flags. -/
theorem runCommand_destroy (s : State) : runCommand 0x2#32 s = .next { s.endSession with
    cmdreg := 0x2#32
    busy := false
    res := { result := 0x0000#16, ready := false, cskip := false, dwr := false, dskip := false } } := by
  have hd : decode 0x2#32 = .ok .destroy := by decide
  simp only [runCommand, execWord, hd, exec_destroy]
  rfl

/-- A completed command write found the core not busy, and it ran its command. -/
theorem step_command_next {s t : State} {rest : List HostAction} {w : Word}
    (hh : s.host = .write 0x000 4 w :: rest) (h : step s = .next t) :
    s.busy = false ∧ runCommand w { s with host := rest } = .next t := by
  have hb : s.busy = false := by
    rcases step_next_cases h with ⟨hh', _⟩ | ⟨_, _, _, hh', _⟩ | ⟨_, _, _, _, hh', _, hc, _⟩ |
      ⟨_, _, _, hh', hb, _⟩ | ⟨_, hh', _⟩ <;> cases hh.symm.trans hh'
    · exact absurd ((regionAt_eq_cmd_iff 0).2 (by decide)) hc
    · exact hb
  exact ⟨hb, (step_command s rest w hh hb).symm.trans h⟩

/-- Between host actions, ending the session where there is none changes nothing. -/
theorem State.Inv.endSession_eq {s : State} (hi : s.Inv) (hv : s.valid = false) : s.endSession = s := by
  obtain ⟨hfe, hdec, hpack⟩ := hi.noSession hv
  cases s
  dsimp only at hv hfe hdec hpack
  subst hv hfe hdec hpack
  rfl

/-- Settles O11: the first DESTROY leaves a core that is not busy and has no session, on which the second one
writes what is there already; without a session the first one does so too, but for what every command writes. -/
theorem destroyIsIdempotent : Obligations.DestroyIsIdempotent := by
  refine ⟨fun s t rest hh h => ?_, fun s rest hi hv hh => ?_⟩
  · obtain ⟨_, hrun⟩ := step_command_next hh h
    obtain rfl := Host.Outcome.next.inj (hrun.symm.trans (runCommand_destroy _))
    refine ⟨?_, rfl⟩
    rw [step_command _ rest 0x2#32 rfl rfl, runCommand_destroy]
    rfl
  · have hend : State.endSession { s with host := rest } = { s with host := rest } :=
      congrArg (fun u : State => { u with host := rest }) (hi.endSession_eq hv)
    rw [step_command s rest 0x2#32 hh hi.notBusy, runCommand_destroy, hend, ← hi.notBusy]

end Sys2Proof.Machine

/-! PROOFS. The errors of a command (60_exceptions.md): the code each command reports, in the order of the checks, and
what a skipped output leaves alone, with the proofs of R240, of R243 and of R244. -/

namespace Sys2Proof.Machine

/-! ### A command without a session (R240) -/

/-- Settles O15: RESET, PFRAME and DPUSH come to their no-session end; CREATE reports 0 or -3, and DESTROY 0. -/
theorem commandsWithoutASessionRaiseHandle : Obligations.CommandsWithoutASessionRaiseHandle := by
  refine ⟨fun s n hv => ⟨exec_reset_of_no_session hv, exec_pframe_of_no_session n hv, exec_dpush_of_no_session n hv⟩,
    fun s fe => ⟨_, _, exec_create fe s, ?_, exec_destroy s,
      (by decide : codeOk ≠ codeHandle)⟩⟩
  dsimp only
  split <;> decide

/-! ### The code a completed command reports (R241, R243) -/

/-- CREATE checks the allocation draw only, where one is made. -/
theorem exec_create_result {fe : Bool} {s t : State} (h : exec (.create fe) s = .next t) :
    t.res.result = if s.allocCanFail ∧ Config.allocFails s.draws.alloc fe then codeAlloc else codeOk := by
  obtain rfl := Host.Outcome.next.inj (h.symm.trans (exec_create fe s))
  simp only [State.allocDrawFails, Bool.and_eq_true]

/-- RESET checks the session only. -/
theorem exec_reset_result {s t : State} (h : exec .reset s = .next t) :
    t.res.result = if s.valid then codeOk else codeHandle := by
  rcases execReset_cases s with ⟨hv, e⟩ | ⟨hv, e⟩ <;> obtain rfl := Host.Outcome.next.inj (h.symm.trans e)
  · simp [hv]
  · simp [hv, codeOk]

/-- PFRAME checks the session before the length. -/
theorem exec_pframe_result {n : Nat} {s t : State} (h : exec (.pframe n) s = .next t) :
    t.res.result = if s.valid = false then codeHandle else if n = 0 then codeInput else codeOk := by
  rcases execPframe_cases n s with ⟨hv, e⟩ | ⟨hv, hn, e⟩ | ⟨_, _, _, e⟩ | ⟨hv, hn, xs, _, e⟩
  · obtain rfl := Host.Outcome.next.inj (h.symm.trans e)
    simp [hv]
  · obtain rfl := Host.Outcome.next.inj (h.symm.trans e)
    simp [hv, hn]
  · exact absurd (h.symm.trans e) nofun
  · obtain rfl := Host.Outcome.next.inj (h.symm.trans e)
    simp [hv, hn, State.runFrame, codeOk]

/-- DPUSH checks the session before the count. -/
theorem exec_dpush_result {n : Nat} {s t : State} (h : exec (.dpush n) s = .next t) :
    t.res.result = if s.valid = false then codeHandle else if 480 < n then codeInput else codeOk := by
  rcases execDpush_cases n s with ⟨hv, e⟩ | ⟨hv, hn, e⟩ | ⟨_, _, _, e⟩ | ⟨hv, hn, xs, _, e⟩
  · obtain rfl := Host.Outcome.next.inj (h.symm.trans e)
    simp [hv]
  · obtain rfl := Host.Outcome.next.inj (h.symm.trans e)
    simp [hv, hn]
  · exact absurd (h.symm.trans e) nofun
  · obtain rfl := Host.Outcome.next.inj (h.symm.trans e)
    simp [hv, hn.not_gt, codeOk]

/-- A completed command write leaves the result code of its body, run on a core that differs from the one before the
step in the command register, `busy`, the flags and the host's actions only. -/
theorem step_command_result {s t : State} {rest : List HostAction} {w : Word}
    (hh : s.host = .write 0x000 4 w :: rest) (h : step s = .next t) :
    ∃ u, execWord w (State.beginCommand w { s with host := rest }) = .next u ∧ t.res.result = u.res.result := by
  obtain ⟨_, hrun⟩ := step_command_next hh h
  obtain ⟨u, hu, rfl⟩ := runCommand_next hrun
  exact ⟨u, hu, rfl⟩

/-- The body of a word that decodes to a command is that command. -/
theorem execWord_ok {w : Word} {i : Instr} (hd : decode w = .ok i) (s : State) : execWord w s = exec i s := by
  simp only [execWord, hd]

/-- The body of an illegal word raises the illegal-word error. -/
theorem execWord_illegal {w : Word} {e : DecodeError} (hd : decode w = .illegal e) (s : State) :
    execWord w s = .next (s.raise codeIllegal) := by
  simp only [execWord, hd, execIllegal]

/-- Settles O17: the word's body reports its command's code, and the common start of a command changes nothing that a
check looks at. -/
theorem resultCodeFollowsThePrecedence : Obligations.ResultCodeFollowsThePrecedence := by
  intro s t rest w hh h
  obtain ⟨u, hu, hcode⟩ := step_command_result hh h
  rw [hcode]
  cases hd : decode w with
  | illegal e =>
    obtain rfl := Host.Outcome.next.inj (hu.symm.trans (execWord_illegal hd _))
    rfl
  | ok i =>
    rw [execWord_ok hd] at hu
    cases i with
    | create fe => exact (exec_create_result hu :)
    | destroy =>
      obtain rfl := Host.Outcome.next.inj (hu.symm.trans (exec_destroy _))
      rfl
    | reset => exact (exec_reset_result hu :)
    | pframe n => exact (exec_pframe_result hu :)
    | dpush n => exact (exec_dpush_result hu :)

/-! ### A skipped output (R244) -/

/-- A frame whose chunk would be skipped stores nothing below `denbuf`. -/
theorem State.byte?_storeFrame_of_small_ccap {s : State} (hc : s.ccap.toNat < 160) (x : Vector F32 480) (m : Memory)
    {a : Nat} (ha : a < 0x0C00) : (s.storeFrame x m).byte? a = m.byte? a := by
  rw [State.storeFrame, if_neg (by omega)]
  exact Memory.byte?_storeHalves_or_skip_of_lt m ha _ _

/-- A frame whose denoised samples would be skipped stores nothing above `chunkbuf`. -/
theorem State.byte?_storeFrame_of_small_dcap {s : State} (hd : s.dcap.toNat < 480) (x : Vector F32 480) (m : Memory)
    {a : Nat} (ha : 0x0940 ≤ a) : (s.storeFrame x m).byte? a = m.byte? a := by
  rw [State.storeFrame, if_neg (by omega : ¬ (s.fe = true ∧ 480 ≤ s.dcap.toNat))]
  split_ifs
  · exact Memory.byte?_storeHalves_of_outside _ _ _ _ (.inr (by simpa [chunkBufOffset, chunkBufBase] using ha))
  · rfl

/-- The capacities have no part in what a frame does to the Decimator, the Packer, the draws and `ready`. -/
theorem State.runFrame_withCapacities (s : State) (c : BitVec 8) (d : BitVec 9) (x : Vector F32 480) :
    let u := State.runFrame x { s with ccap := c, dcap := d }
    u.dec = (s.runFrame x).dec ∧ u.pack = (s.runFrame x).pack ∧ u.draws = (s.runFrame x).draws ∧
      u.res.ready = (s.runFrame x).res.ready := by
  simp only [State.runFrame_eq, and_self]

/-- Settles O43: the flags and the result are those of `State.runFrame_eq`, the bytes of a skipped output lie outside
the stores of the frame, and the run with room for both outputs consumes the same entries. -/
theorem skippedOutputsDoNotDisturb : Obligations.SkippedOutputsDoNotDisturb := by
  intro s t n xs hv hn hx ht
  obtain rfl := Host.Outcome.next.inj (ht.symm.trans (exec_pframe_of_written hv (by omega) hx))
  refine ⟨rfl, fun hfill hc => ⟨?_, ?_, fun i hi => ?_⟩, fun hfe hd => ⟨?_, fun i hi => ?_⟩, fun t' ht' => ?_⟩
  · simp [State.runFrame_eq, hc, hfill]
  · simp [State.runFrame_eq, hfill]
  · rw [State.runFrame_mem]
    exact Memory.half?_congr (State.byte?_storeFrame_of_small_ccap hc _ _ (by omega))
      (State.byte?_storeFrame_of_small_ccap hc _ _ (by omega))
  · simp [State.runFrame_eq, hfe, hd]
  · rw [State.runFrame_mem]
    exact Memory.half?_congr (State.byte?_storeFrame_of_small_dcap hd _ _ (by omega))
      (State.byte?_storeFrame_of_small_dcap hd _ _ (by omega))
  · have hroom := exec_pframe_of_written (s := { s with ccap := 160#8, dcap := 480#9 }) hv (by omega) hx
    obtain rfl := Host.Outcome.next.inj (ht'.symm.trans hroom)
    exact s.runFrame_withCapacities 160#8 480#9 _

end Sys2Proof.Machine

/-! PROOFS. Entries never written (70_reset_and_hazards.md R278): the frame a PFRAME reads where all of its own entries
are written, and the proof of the faults for unwritten input. -/

namespace Sys2Proof.Machine

/-- R278: the entries below `min n 480` alone decide that the frame can be read. -/
theorem State.exists_frameInput_of_written {s : State} {n : Nat} (h : ∀ i < min n 480, (s.inbuf? i).isSome = true) :
    ∃ xs, s.frameInput n = some xs := by
  refine Option.ne_none_iff_exists'.1 fun hnone => ?_
  obtain ⟨i, hi, hunwritten⟩ := (s.frameInput_eq_none n).1 hnone
  simpa [hunwritten] using h i hi

/-- Where the entries it reads are written, a PFRAME completes: with code 0xFFFF, with code 0xFFFE, or with a frame. -/
theorem exec_pframe_next_of_written {s : State} {n : Nat} (h : ∀ i < min n 480, (s.inbuf? i).isSome = true) :
    ∃ t, exec (.pframe n) s = .next t := by
  cases hv : s.valid with
  | false => exact ⟨_, exec_pframe_of_no_session n hv⟩
  | true =>
    obtain rfl | hn := eq_or_ne n 0
    · exact ⟨_, exec_pframe_zero hv⟩
    · obtain ⟨xs, hx⟩ := State.exists_frameInput_of_written h
      exact ⟨_, exec_pframe_of_written hv hn hx⟩

/-- Settles O30: an unwritten entry leaves nothing to gather, which is the fault of PFRAME and of DPUSH, and a PFRAME
whose entries are all written completes in each of its cases. -/
theorem unwrittenInputsFault : Obligations.UnwrittenInputsFault :=
  ⟨fun s n hv =>
    ⟨fun hn hx => exec_pframe_of_unwritten hv (Nat.ne_of_gt hn) ((s.frameInput_eq_none n).2 hx),
      fun hn hx => exec_dpush_of_unwritten hv hn ((s.decinInput_eq_none n).2 hx)⟩,
    fun _ _ => exec_pframe_next_of_written⟩

end Sys2Proof.Machine

/-! PROOFS. Decoding and encoding undo each other (30_encoding.md R102 to R110), and the step of a word that decodes
(R109). -/

namespace Sys2Proof

/-! ### The fields of an encoding (R103, R104) -/

/-- A format F word holds OP and FE, and 0 elsewhere. -/
theorem formatF_fields (op : BitVec 4) (fe : Bool) :
    (formatF (op.setWidth 32) fe).extractLsb' 0 4 = op ∧ (formatF (op.setWidth 32) fe).extractLsb' 4 4 = 0#4 ∧
    (formatF (op.setWidth 32) fe).extractLsb' 8 1 = BitVec.ofBool fe ∧
    (formatF (op.setWidth 32) fe).extractLsb' 9 23 = 0#23 := by
  revert op fe; decide

/-- The count of a format C word, shifted to its place, is 0 below bit 8. -/
theorem extractLsb'_shiftLeft_low (x : Word) {a k : Nat} (h : a + k ≤ 8) : (x <<< 8).extractLsb' a k = 0#k := by
  ext i hi
  simp [show a + i < 8 by omega]

/-- A field of the shifted count from bit 8 on is a field of the count. -/
theorem extractLsb'_shiftLeft_high (x : Word) (a k : Nat) (h : 8 + a + k ≤ 32) :
    (x <<< 8).extractLsb' (8 + a) k = x.extractLsb' a k := by
  ext i hi
  simp [show 8 + a + i < 32 by omega, show ¬ 8 + a + i < 8 by omega, show 8 + a + i - 8 = a + i by omega,
    BitVec.getLsbD_eq_getElem (show a + i < 32 by omega)]

/-- A format C word holds OP and CNT, and 0 elsewhere, when the count fits CNT. -/
theorem formatC_fields (op : BitVec 4) {cnt : Nat} (h : cnt ≤ 511) :
    (formatC (op.setWidth 32) cnt).extractLsb' 0 4 = op ∧ (formatC (op.setWidth 32) cnt).extractLsb' 4 4 = 0#4 ∧
    (formatC (op.setWidth 32) cnt).extractLsb' 8 9 = BitVec.ofNat 9 cnt ∧
    (formatC (op.setWidth 32) cnt).extractLsb' 17 15 = 0#15 := by
  have hcnt : (BitVec.ofNat 32 cnt).extractLsb' 0 9 = BitVec.ofNat 9 cnt := by
    apply BitVec.eq_of_toNat_eq
    simp
  have hz : (BitVec.ofNat 32 cnt).extractLsb' 9 15 = 0#15 := by
    apply BitVec.eq_of_toNat_eq
    simp [Nat.shiftRight_eq_div_pow]
    omega
  simp only [formatC, BitVec.extractLsb'_or, extractLsb'_setWidth_low,
    extractLsb'_setWidth_high op (le_refl 4), extractLsb'_setWidth_high op (by decide : 4 ≤ 8),
    extractLsb'_setWidth_high op (by decide : 4 ≤ 17), extractLsb'_shiftLeft_low _ (by decide : 0 + 4 ≤ 8),
    extractLsb'_shiftLeft_low _ (by decide : 4 + 4 ≤ 8), extractLsb'_shiftLeft_high _ 0 9 (by decide),
    extractLsb'_shiftLeft_high _ 9 15 (by decide), hcnt, hz, BitVec.or_zero, BitVec.zero_or, and_self]

/-! ### Every word that decodes is the encoding of its command (R108, R109) -/

/-- A word with the fixed bits of format F is the encoding of its FE. -/
theorem formatF_feField {w : Word} {op : BitVec 4} (h : w &&& 0xFFFFFEFF#32 = op.setWidth 32) :
    formatF (op.setWidth 32) (feField w) = w := by
  obtain ⟨hop, hz0, hz⟩ := (selects_formatF_iff w op).1 h
  obtain ⟨eop, ez0, efe, ez⟩ := formatF_fields op (feField w)
  refine (word_eq_iff_fields (n := 1) (by decide) _ _).2 ⟨eop.trans hop.symm, ez0.trans hz0.symm, ?_, ez.trans hz.symm⟩
  rw [efe, feField]
  ext i hi
  obtain rfl : i = 0 := by omega
  simp

/-- CNT is a 9-bit field. -/
theorem cntField_le (w : Word) : cntField w ≤ 511 := Nat.le_of_lt_succ (w.extractLsb' 8 9).isLt

/-- A word with the fixed bits of format C is the encoding of its CNT. -/
theorem formatC_cntField {w : Word} {op : BitVec 4} (h : w &&& 0xFFFE00FF#32 = op.setWidth 32) :
    formatC (op.setWidth 32) (cntField w) = w := by
  obtain ⟨hop, hz0, hz⟩ := (selects_formatC_iff w op).1 h
  obtain ⟨eop, ez0, ecnt, ez⟩ := formatC_fields op (cntField_le w)
  exact (word_eq_iff_fields (n := 9) (by decide) _ _).2
    ⟨eop.trans hop.symm, ez0.trans hz0.symm, ecnt.trans (BitVec.eq_of_toNat_eq (by simp [cntField])), ez.trans hz.symm⟩

/-- Settles O2: one case per comparison of the decoder, and the fields of the word in each. -/
theorem encodeOfDecodeIsTheWord : Obligations.EncodeOfDecodeIsTheWord := by
  intro w i h
  unfold decode at h
  split_ifs at h with hc hd hr hp hq <;> obtain rfl := Decoded.ok.inj h
  · exact ⟨rfl, formatF_feField (op := 1#4) hc⟩
  · exact ⟨rfl, hd.symm⟩
  · exact ⟨rfl, hr.symm⟩
  · exact ⟨decide_eq_true (cntField_le w), formatC_cntField (op := 4#4) hp⟩
  · exact ⟨decide_eq_true (cntField_le w), formatC_cntField (op := 5#4) hq⟩

/-! ### Every command that fits is what its encoding decodes to (R104, R105, R110) -/

/-- The encoding of a command that fits lies in its own row of the opcode map. -/
theorem encode_selects (i : Instr) : Laws.EncodesItsRow.Statement i := by
  cases i with
  | create fe => exact Laws.EncodesItsRow.create fe
  | destroy => exact Laws.EncodesItsRow.destroy
  | reset => exact Laws.EncodesItsRow.reset
  | pframe cnt => exact Laws.EncodesItsRow.pframe cnt
  | dpush cnt => exact Laws.EncodesItsRow.dpush cnt

/-- Every command has a row. -/
theorem exists_row_of_mnemonic (i : Instr) : ∃ r ∈ opcodeMap, r.mnemonic = i.mnemonic := by
  cases i with
  | create fe => exact ⟨opcodeMap[0], List.getElem_mem _, rfl⟩
  | destroy => exact ⟨opcodeMap[1], List.getElem_mem _, rfl⟩
  | reset => exact ⟨opcodeMap[2], List.getElem_mem _, rfl⟩
  | pframe cnt => exact ⟨opcodeMap[3], List.getElem_mem _, rfl⟩
  | dpush cnt => exact ⟨opcodeMap[4], List.getElem_mem _, rfl⟩

/-- The FE of a format F word can be read back. -/
theorem formatF_injective {op : BitVec 4} {fe fe' : Bool}
    (h : formatF (op.setWidth 32) fe = formatF (op.setWidth 32) fe') : fe = fe' := by
  have e := congrArg (BitVec.extractLsb' 8 1) h
  rw [(formatF_fields op fe).2.2.1, (formatF_fields op fe').2.2.1] at e
  simpa using congrArg (BitVec.getLsbD · 0) e

/-- The count of a format C word can be read back. -/
theorem formatC_injective {op : BitVec 4} {m n : Nat} (hm : m ≤ 511) (hn : n ≤ 511)
    (h : formatC (op.setWidth 32) m = formatC (op.setWidth 32) n) : m = n := by
  have e := congrArg (BitVec.extractLsb' 8 9) h
  rw [(formatC_fields op hm).2.2.1, (formatC_fields op hn).2.2.1] at e
  have e' := congrArg BitVec.toNat e
  simp only [BitVec.toNat_ofNat] at e'
  omega

/-- Commands of one mnemonic that fit and have one encoding are one command. -/
theorem encode_injective {i j : Instr} (hm : i.mnemonic = j.mnemonic) (hi : i.wellFormed = true)
    (hj : j.wellFormed = true) (h : encode i = encode j) : i = j := by
  cases i with
  | create fe =>
    cases j <;> simp [Instr.mnemonic] at hm
    rw [formatF_injective (op := 1#4) h]
  | destroy => cases j <;> simp [Instr.mnemonic] at hm; rfl
  | reset => cases j <;> simp [Instr.mnemonic] at hm; rfl
  | pframe m =>
    cases j <;> simp [Instr.mnemonic] at hm
    rw [formatC_injective (op := 4#4) (of_decide_eq_true hi) (of_decide_eq_true hj) h]
  | dpush m =>
    cases j <;> simp [Instr.mnemonic] at hm
    rw [formatC_injective (op := 5#4) (of_decide_eq_true hi) (of_decide_eq_true hj) h]

/-- The decoder undoes the encoder: the word lies in the command's row, so it decodes to a command of the same mnemonic,
whose encoding is the same word. -/
theorem decode_encode {i : Instr} (hi : i.wellFormed = true) : decode (encode i) = .ok i := by
  obtain ⟨r, hr, hm⟩ := exists_row_of_mnemonic i
  have hsel : encode i &&& r.mask = r.bits := by simpa [OpcodeRow.selects] using (encode_selects i hi r hr).2 hm
  obtain ⟨j, hj, hjm⟩ := (selects_iff_decode hr).1 hsel
  obtain ⟨hjw, hje⟩ := encodeOfDecodeIsTheWord _ j hj
  rw [hj, encode_injective (hjm.trans hm) hjw hi hje]

/-- Settles O1: the decoder undoes the encoder, and the assembler is the encoder guarded by the check. -/
theorem decodeOfEncodeIsTheCommand : Obligations.DecodeOfEncodeIsTheCommand :=
  fun _ => ⟨fun h => ⟨decode_encode h, by simp [assemble, h]⟩, fun h => by simp [assemble, h]⟩

/-- Settles O7: each word is the encoding of its command. -/
theorem writtenOutWordsDecode : Obligations.WrittenOutWordsDecode :=
  ⟨decode_encode (i := .create true) rfl, decode_encode (i := .create false) rfl, decode_encode (i := .destroy) rfl,
    decode_encode (i := .reset) rfl, decode_encode (i := .pframe 480) rfl, decode_encode (i := .dpush 481) rfl⟩

end Sys2Proof

namespace Sys2Proof.Machine

/-- Settles O6: the step is the command's run, whose body is the decoded command. -/
theorem stepRunsTheDecodedCommand : Obligations.StepRunsTheDecodedCommand := by
  intro s rest w i hb hd
  rw [step_command_cons s rest w hb, runCommand, execWord_ok hd]
  rfl

end Sys2Proof.Machine

/-! PROOFS. The ends of a command and of a command step, the invariant of the states between host actions and whole
entries (Safety), and the proofs that they hold at reset and are kept by every step. -/

namespace Sys2Proof.Machine

/-! ### The ends of a command -/

/-- How a command that completes ends: the state it was in, the command, and what it leaves. -/
inductive CommandEnd (s : State) : Instr → State → Prop where
  /-- RESET, PFRAME or DPUSH without a session (60_exceptions.md R240). -/
  | noSession {i : Instr} (hv : s.valid = false) : CommandEnd s i (s.raise codeHandle)
  /-- PFRAME of length 0 (41_frame_packer.md R174). -/
  | emptyFrame (hv : s.valid = true) : CommandEnd s (.pframe 0) (s.raise codeInput)
  /-- DPUSH of more than 480 samples (40_decimator.md R142). -/
  | overlongPush {n : Nat} (hv : s.valid = true) (hn : 480 < n) : CommandEnd s (.dpush n) (s.raise codeInput)
  /-- CREATE whose allocation fails (42_session.md R211). -/
  | createFailed {fe : Bool} (hf : s.allocDrawFails fe = true) :
      CommandEnd s (.create fe) (s.endSession.countAlloc.raise codeAlloc)
  /-- CREATE (42_session.md R211). -/
  | created {fe : Bool} : CommandEnd s (.create fe) { s.endSession.countAlloc with valid := true, fe := fe }.succeed
  /-- DESTROY (42_session.md R213). -/
  | destroyed : CommandEnd s .destroy s.endSession.succeed
  /-- RESET (42_session.md R212). -/
  | sessionReset (hv : s.valid = true) : CommandEnd s .reset s.clearSession.succeed
  /-- An accepted PFRAME (41_frame_packer.md R181). -/
  | frame {n : Nat} {xs : List Half} (hv : s.valid = true) (hn : n ≠ 0) (hx : s.frameInput n = some xs) :
      CommandEnd s (.pframe n) (s.runFrame (assembleFrame xs))
  /-- An accepted DPUSH (40_decimator.md R142). -/
  | push {n : Nat} {xs : List F32} (hv : s.valid = true) (hn : n ≤ 480) (hx : s.decinInput n = some xs) :
      CommandEnd s (.dpush n) ((s.withDecRun (s.decRun xs)).storeDecOut (s.decRun xs).out).succeed

/-- A command that completes comes to one of these ends. -/
theorem exec_end {i : Instr} {s t : State} (h : exec i s = .next t) : CommandEnd s i t := by
  cases i with
  | create fe =>
    rcases execCreate_cases fe s with ⟨hf, e⟩ | ⟨_, e⟩ <;> obtain rfl := Host.Outcome.next.inj (h.symm.trans e)
    · exact .createFailed hf
    · exact .created
  | destroy =>
    obtain rfl := Host.Outcome.next.inj (h.symm.trans (exec_destroy s))
    exact .destroyed
  | reset =>
    rcases execReset_cases s with ⟨hv, e⟩ | ⟨hv, e⟩ <;> obtain rfl := Host.Outcome.next.inj (h.symm.trans e)
    · exact .noSession hv
    · exact .sessionReset hv
  | pframe n =>
    rcases execPframe_cases n s with ⟨hv, e⟩ | ⟨hv, rfl, e⟩ | ⟨_, _, _, e⟩ | ⟨hv, hn, xs, hx, e⟩
    · obtain rfl := Host.Outcome.next.inj (h.symm.trans e)
      exact .noSession hv
    · obtain rfl := Host.Outcome.next.inj (h.symm.trans e)
      exact .emptyFrame hv
    · exact absurd (h.symm.trans e) nofun
    · obtain rfl := Host.Outcome.next.inj (h.symm.trans e)
      exact .frame hv hn hx
  | dpush n =>
    rcases execDpush_cases n s with ⟨hv, e⟩ | ⟨hv, hn, e⟩ | ⟨_, _, _, e⟩ | ⟨hv, hn, xs, hx, e⟩
    · obtain rfl := Host.Outcome.next.inj (h.symm.trans e)
      exact .noSession hv
    · obtain rfl := Host.Outcome.next.inj (h.symm.trans e)
      exact .overlongPush hv hn
    · exact absurd (h.symm.trans e) nofun
    · obtain rfl := Host.Outcome.next.inj (h.symm.trans e)
      exact .push hv hn hx

/-- The commands that store: an accepted frame and an accepted DPUSH. -/
theorem CommandEnd.stores {i : Instr} {s t : State} (he : CommandEnd s i t) :
    (t.mem = s.mem ∧ t.dcount = s.dcount) ∨
    (∃ n xs, i = .pframe n ∧ n ≠ 0 ∧ s.valid = true ∧ t = s.runFrame (assembleFrame xs)) ∨
    (∃ n xs, i = .dpush n ∧ t = ((s.withDecRun (s.decRun xs)).storeDecOut (s.decRun xs).out).succeed) := by
  cases he with
  | frame hv hn _ => exact .inr (.inl ⟨_, _, rfl, hn, hv, rfl⟩)
  | push _ _ _ => exact .inr (.inr ⟨_, _, rfl, rfl⟩)
  | noSession _ => exact .inl ⟨rfl, rfl⟩
  | emptyFrame _ => exact .inl ⟨rfl, rfl⟩
  | overlongPush _ _ => exact .inl ⟨rfl, rfl⟩
  | createFailed _ => exact .inl (by simp)
  | created => exact .inl (by simp)
  | destroyed => exact .inl ⟨rfl, rfl⟩
  | sessionReset _ => exact .inl ⟨rfl, rfl⟩

/-- The body of a command word that completes: the illegal word, or the end of the decoded command. -/
theorem execWord_end {w : Word} {s t : State} (h : execWord w s = .next t) :
    ((∃ e, decode w = .illegal e) ∧ t = s.raise codeIllegal) ∨ ∃ i, decode w = .ok i ∧ CommandEnd s i t := by
  cases hd : decode w with
  | illegal e => exact .inl ⟨⟨e, rfl⟩, (Host.Outcome.next.inj (h.symm.trans (execWord_illegal hd s)))⟩
  | ok i => exact .inr ⟨i, rfl, exec_end ((execWord_ok hd s).symm.trans h)⟩

/-! ### The parts of the invariant that no result code or flag enters -/

/-- What the invariant says of the buffers, the ROM, the Packer, `dcount`, and of a state without a session. -/
structure State.StoredInv (s : State) : Prop where
  memWf : s.mem.wf
  memInRam : s.mem.inRam
  rom : s.coef = Config.coefficients
  halfFrames : s.pack.filled.val = 0 ∨ s.pack.filled.val = 80
  dcountBound : s.dcount ≤ 80
  noSession : s.valid = false → s.fe = false ∧ s.dec = DecimatorState.cleared ∧ s.pack = FramePackerState.cleared

theorem State.Inv.stored {s : State} (h : s.Inv) : s.StoredInv := { h with }

theorem State.StoredInv.beginCommand {s : State} (h : s.StoredInv) (w : Word) (rest : List HostAction) :
    (State.beginCommand w { s with host := rest }).StoredInv := { h with }

theorem State.StoredInv.clearSession {s : State} (h : s.StoredInv) : s.clearSession.StoredInv :=
  { h with halfFrames := .inl rfl, noSession := fun hv => ⟨(h.noSession hv).1, rfl, rfl⟩ }

theorem State.StoredInv.endSession {s : State} (h : s.StoredInv) : s.endSession.StoredInv :=
  { h with halfFrames := .inl rfl, noSession := fun _ => ⟨rfl, rfl, rfl⟩ }

theorem State.StoredInv.countAlloc {s : State} (h : s.StoredInv) : s.countAlloc.StoredInv := by
  rw [State.countAlloc_eq]
  exact { h with }

theorem State.StoredInv.startSession {s : State} (h : s.StoredInv) (fe : Bool) :
    { s with valid := true, fe := fe }.StoredInv := { h with noSession := nofun }

/-- The codes that a state admits as its result: `E_HANDLE` and `E_ALLOC` without a session, `E_INPUT` in one, and
`E_ALLOC` only where allocations can fail (60_exceptions.md R241, R243). -/
inductive State.AdmitsCode (s : State) : Half → Prop where
  | ok : AdmitsCode s codeOk
  | illegal : AdmitsCode s codeIllegal
  | handle (hv : s.valid = false) : AdmitsCode s codeHandle
  | input (hv : s.valid = true) : AdmitsCode s codeInput
  | alloc (hv : s.valid = false) (hstrap : s.allocCanFail = true) : AdmitsCode s codeAlloc

/-- The invariant's clauses for an admitted code. -/
theorem State.AdmitsCode.clauses {s : State} {c : Half} (h : s.AdmitsCode c) : isStatusCode c = true ∧
    ((c = codeHandle → s.valid = false) ∧ (c = codeAlloc → s.valid = false) ∧ (c = codeInput → s.valid = true)) ∧
    (c = codeAlloc → s.allocCanFail = true) := by
  cases h <;>
    simp [isStatusCode, codeOk, codeHandle, codeInput, codeAlloc, codeIllegal, *]

/-- A command that set no flag ends in the invariant with every result code that its state admits. -/
theorem State.StoredInv.inv_raise {s : State} (h : s.StoredInv) {r c : Half}
    (hres : s.res = ⟨r, false, false, false, false⟩) (hc : s.AdmitsCode c) : (s.raise c).endCommand.Inv where
  notBusy := rfl
  memWf := h.memWf
  memInRam := h.memInRam
  rom := h.rom
  halfFrames := h.halfFrames
  dcountBound := h.dcountBound
  code := hc.clauses.1
  noSession := h.noSession
  codeAndSession := hc.clauses.2.1
  allocStrap := hc.clauses.2.2
  flagsNeedSuccess := by simp [hres]
  skipIsReady := by simp [hres]
  readyIsEmpty := by simp [hres]
  denoisedFlags := by simp [hres]

/-- A command that succeeds without a flag ends in the invariant. -/
theorem State.StoredInv.inv_succeed {s : State} (h : s.StoredInv) {r : Half}
    (hres : s.res = ⟨r, false, false, false, false⟩) : s.succeed.endCommand.Inv :=
  h.inv_raise hres .ok

/-! ### An accepted frame -/

/-- Where a frame's 80 outputs leave `filled` (R180). -/
theorem packStep_filled_of_frame (p : FramePackerState) {out : List F32} (h : out.length = 80) :
    (packStep p out).1.filled.val = if 160 ≤ p.filled.val + 80 then 0 else p.filled.val + 80 := by
  split_ifs with hc
  · rw [packStep_complete p out (by omega)]
    rfl
  · rw [packStep_filling p out (by omega)]
    exact congrArg _ h

/-- What the stores to `denbuf` and to `chunkbuf` keep, the stores of a frame keep. -/
theorem State.storeFrame_induction {P : Memory → Prop} (s : State) (x : Vector F32 480) {m : Memory} (hm : P m)
    (hden : ∀ (m : Memory) (vs : List Half), P m → vs.length = 480 → P (m.storeHalves (denBufOffset 0) vs))
    (hchunk : ∀ (m : Memory) (vs : List Half), P m → vs.length = 160 → P (m.storeHalves (chunkBufOffset 0) vs)) :
    P (s.storeFrame x m) := by
  unfold State.storeFrame
  dsimp only
  split_ifs
  · exact hchunk _ _ (hden _ _ hm (by simp)) (by simp)
  · exact hchunk _ _ hm (by simp)
  · exact hden _ _ hm (by simp)
  · exact hm

/-- A store of i16 elements inside the RAM buffers lists RAM offsets only. -/
theorem Memory.inRam_storeHalves {m : Memory} (h : m.inRam) (a : Nat) (vs : List Half)
    (ha : ∀ k < 2 * vs.length, (regionAt (a + k)).any Region.isRam = true) : (m.storeHalves a vs).inRam :=
  Memory.inRam_storeBytes _ h a (by rwa [halves_length])

/-- A store of 32-bit elements inside the RAM buffers lists RAM offsets only. -/
theorem Memory.inRam_storeWords {m : Memory} (h : m.inRam) (a : Nat) (vs : List Word)
    (ha : ∀ k < 4 * vs.length, (regionAt (a + k)).any Region.isRam = true) : (m.storeWords a vs).inRam :=
  Memory.inRam_storeBytes _ h a (by rwa [words_length])

/-- The stores of a frame keep the canonical form. -/
theorem State.wf_storeFrame (s : State) (x : Vector F32 480) {m : Memory} (h : m.wf) : (s.storeFrame x m).wf :=
  s.storeFrame_induction (P := Memory.wf) x h (fun _ _ hm _ => Memory.wf_storeHalves hm _ _)
    (fun _ _ hm _ => Memory.wf_storeHalves hm _ _)

/-- The stores of a frame lie in RAM buffers. -/
theorem State.inRam_storeFrame (s : State) (x : Vector F32 480) {m : Memory} (h : m.inRam) :
    (s.storeFrame x m).inRam :=
  s.storeFrame_induction (P := Memory.inRam) x h
    (fun _ _ hm hl => Memory.inRam_storeHalves hm _ _ fun _ hk =>
      (isRam_iff _).2 (by simp only [denBufOffset, denBufBase]; omega))
    (fun _ _ hm hl => Memory.inRam_storeHalves hm _ _ fun _ hk =>
      (isRam_iff _).2 (by simp only [chunkBufOffset, chunkBufBase]; omega))

/-- Where an accepted frame leaves `filled`. -/
theorem State.runFrame_filled (s : State) (x : Vector F32 480) :
    (s.runFrame x).pack.filled.val = if 160 ≤ s.pack.filled.val + 80 then 0 else s.pack.filled.val + 80 := by
  rw [State.runFrame_eq]
  exact packStep_filled_of_frame _ (s.decRun_frame_length _)

/-- The result of an accepted frame that starts without flags. -/
theorem State.runFrame_res {s : State} {r : Half} (hres : s.res = ⟨r, false, false, false, false⟩)
    (x : Vector F32 480) : (s.runFrame x).res = {
      result := codeOk
      ready := decide (160 ≤ s.pack.filled.val + 80)
      cskip := decide (160 ≤ s.pack.filled.val + 80) && decide (s.ccap.toNat < 160)
      dwr := s.fe && decide (480 ≤ s.dcap.toNat)
      dskip := s.fe && decide (s.dcap.toNat < 480) } := by
  simp [State.runFrame_eq, hres, codeOk]

/-- An accepted frame ends in the invariant. -/
theorem State.StoredInv.inv_runFrame {s : State} (h : s.StoredInv) {r : Half}
    (hres : s.res = ⟨r, false, false, false, false⟩) (hv : s.valid = true) (x : Vector F32 480) :
    (s.runFrame x).endCommand.Inv := by
  obtain ⟨hvalid, hfe, _, hcoef, _, _, hdcount, _⟩ := s.runFrame_fields x
  have hfilled := s.runFrame_filled x
  have hr := State.runFrame_res hres x
  constructor <;>
    simp only [State.endCommand_busy, State.endCommand_mem, State.endCommand_coef, State.endCommand_pack,
      State.endCommand_dcount, State.endCommand_res, State.endCommand_valid, State.endCommand_fe,
      State.endCommand_allocCanFail, State.endCommand_dec, hvalid, hfe, hcoef, hdcount, hfilled, hr, hv]
  case memWf => exact s.runFrame_mem x ▸ s.wf_storeFrame x h.memWf
  case memInRam => exact s.runFrame_mem x ▸ s.inRam_storeFrame x h.memInRam
  case rom => exact h.rom
  case halfFrames => rcases h.halfFrames with e | e <;> simp [e]
  case dcountBound => exact h.dcountBound
  case code => rfl
  case noSession => exact nofun
  case codeAndSession => simp [codeOk, codeHandle, codeAlloc]
  case allocStrap => simp [codeOk, codeAlloc]
  case flagsNeedSuccess => simp
  case skipIsReady => simp +contextual
  case readyIsEmpty => simp
  case denoisedFlags =>
    refine ⟨?_, ?_⟩
    · by_cases hd : 480 ≤ s.dcap.toNat
      · simp [hd, hd.not_gt]
      · simp [hd]
    · cases s.fe <;> simp

/-! ### An accepted DPUSH -/

/-- A DPUSH of at most 480 samples has at most 80 outputs. -/
theorem State.decRun_out_length_le (s : State) {xs : List F32} (h : xs.length ≤ 480) :
    (s.decRun xs).out.length ≤ 80 := by
  have := s.dec.phase.isLt
  rw [State.decRun, decProcess_out_length]
  omega

theorem State.StoredInv.push {s : State} (h : s.StoredInv) (hv : s.valid = true) {xs : List F32}
    (hx : xs.length ≤ 480) : ((s.withDecRun (s.decRun xs)).storeDecOut (s.decRun xs).out).StoredInv where
  memWf := Memory.wf_storeWords h.memWf _ _
  memInRam := by
    have := s.decRun_out_length_le hx
    exact Memory.inRam_storeWords h.memInRam _ _ fun k hk =>
      (isRam_iff _).2 (by simp only [decOutOffset, decOutBase]; omega)
  rom := h.rom
  halfFrames := h.halfFrames
  dcountBound := s.decRun_out_length_le hx
  noSession := fun hv' => absurd (hv.symm.trans hv') nofun

/-! ### Every step keeps the invariant -/

/-- A failed allocation draw is made only where allocations can fail. -/
theorem State.allocCanFail_of_allocDrawFails {s : State} {fe : Bool} (h : s.allocDrawFails fe = true) :
    s.allocCanFail = true := by
  simp only [State.allocDrawFails, Bool.and_eq_true] at h
  exact h.1

/-- A command that starts without flags ends in the invariant. -/
theorem CommandEnd.inv {i : Instr} {s t : State} (he : CommandEnd s i t) (h : s.StoredInv) {r : Half}
    (hres : s.res = ⟨r, false, false, false, false⟩) : t.endCommand.Inv := by
  cases he with
  | noSession hv => exact h.inv_raise hres (.handle hv)
  | emptyFrame hv => exact h.inv_raise hres (.input hv)
  | overlongPush hv _ => exact h.inv_raise hres (.input hv)
  | createFailed hf =>
    have hstrap := State.allocCanFail_of_allocDrawFails hf
    exact h.endSession.countAlloc.inv_raise (r := r) (by simpa using hres)
      (.alloc (by simp) (by simpa using hstrap))
  | created => exact (h.endSession.countAlloc.startSession _).inv_succeed (r := r) (by simpa using hres)
  | destroyed => exact h.endSession.inv_succeed hres
  | sessionReset _ => exact h.clearSession.inv_succeed hres
  | frame hv _ _ => exact h.inv_runFrame hres hv _
  | push hv hn hx =>
    obtain ⟨hl, _⟩ := (s.decinInput_eq_some _ _).1 hx
    exact (h.push hv (hl.trans_le hn)).inv_succeed hres

/-- A host store keeps the invariant: it writes bytes of IN_BUF and DEC_IN, or the capacities. -/
theorem State.Inv.hostStore {s : State} (h : s.Inv) {off size : Nat} (v : Word)
    (hl : legalAccess off size = true) : (s.hostStore off size v).Inv := by
  rcases s.hostStore_cases off size v with ⟨_, e⟩ | ⟨hr, e⟩ | ⟨_, _, _, e⟩ <;> rw [e]
  · exact { h with }
  · have hram : ∀ k < (writtenBytes size v).length, (regionAt (off + k)).any Region.isRam = true := by
      intro k hk
      rw [writtenBytes_length size v (legalAccess_size hl)] at hk
      rw [regionAt_add_of_legalAccess hl hk]
      rcases hr with hr | hr <;> rw [hr] <;> rfl
    exact { h with
      memWf := Memory.wf_storeBytes _ h.memWf off
      memInRam := Memory.inRam_storeBytes _ h.memInRam off hram }
  · exact h

/-- The reset state is one that a command without flags leaves. -/
theorem State.inv_reset : State.reset.Inv :=
  State.StoredInv.inv_succeed (s := State.reset)
    { memWf := Memory.wf_nil
      memInRam := nofun
      rom := rfl
      halfFrames := .inl rfl
      dcountBound := Nat.zero_le _
      noSession := fun _ => ⟨rfl, rfl, rfl⟩ } rfl

/-- A hardware reset leaves the invariant, as the ROM held `H`. -/
theorem State.Inv.hardwareReset {s : State} (h : s.Inv) : s.hardwareReset.Inv :=
  { State.inv_reset with rom := h.rom, allocStrap := nofun }

/-- Settles O59: the kinds of step one by one, and for a command the end it comes to. -/
theorem everyStepKeepsTheInvariant : Obligations.EveryStepKeepsTheInvariant := by
  intro s t hs h
  rcases step_next_cases h with ⟨_, rfl⟩ | ⟨off, size, rest, _, _, ⟨_, rfl⟩ | ⟨_, rfl⟩⟩ |
    ⟨off, size, v, rest, _, hl, _, _, rfl⟩ | ⟨w, rest, u, _, _, hu, rfl⟩ | ⟨rest, _, rfl⟩
  · exact hs
  · exact { hs with }
  · exact { hs with }
  · exact State.Inv.hostStore (s := { s with host := rest }) { hs with } v hl
  · have hstart := hs.stored.beginCommand w rest
    rcases execWord_end hu with ⟨_, rfl⟩ | ⟨i, _, he⟩
    · exact hstart.inv_raise rfl .illegal
    · exact he.inv hstart rfl
  · exact State.Inv.hardwareReset (s := { s with host := rest }) { hs with }

/-- Settles O58: the invariant is `State.inv_reset`, and the memory lists nothing. -/
theorem invariantHoldsAtReset : Obligations.InvariantHoldsAtReset :=
  ⟨State.inv_reset, by constructor <;> intros <;> rfl⟩

/-! ### Whole entries -/

/-- The `n` bytes from `a` on are all listed or none is. -/
def Memory.wholeAt (m : Memory) (a n : Nat) : Prop := ∀ k < n, (m.byte? a).isSome = (m.byte? (a + k)).isSome

/-- An i16 element is whole when its two bytes are listed alike. -/
theorem Memory.wholeAt_two {m : Memory} {a : Nat} :
    m.wholeAt a 2 ↔ (m.byte? a).isSome = (m.byte? (a + 1)).isSome := by
  refine ⟨fun h => h 1 (by decide), fun h k hk => ?_⟩
  obtain rfl | rfl : k = 0 ∨ k = 1 := by omega
  · rfl
  · exact h

/-- A store that covers an element or leaves it alone keeps it whole. -/
theorem Memory.wholeAt_storeBytes {m : Memory} {a n : Nat} (h : m.wholeAt a n) (b : Nat) (vs : List Byte)
    (hcover : a + n ≤ b ∨ b + vs.length ≤ a ∨ (b ≤ a ∧ a + n ≤ b + vs.length)) :
    (m.storeBytes b vs).wholeAt a n := by
  intro k hk
  simp only [Memory.byte?_storeBytes]
  by_cases hin : b ≤ a ∧ a + n ≤ b + vs.length
  · rw [if_pos (by omega), if_pos (by omega), List.getElem?_eq_getElem (by omega), List.getElem?_eq_getElem (by omega)]
    rfl
  · rw [if_neg (by omega), if_neg (by omega)]
    exact h k hk

/-- A store of whole elements keeps every entry whole: it starts and ends on an i16, and on an f32 where it reaches
one. -/
theorem Memory.wholeEntries.storeBytes {m : Memory} (h : m.wholeEntries) (b : Nat) (vs : List Byte)
    (h2 : b % 2 = 0 ∧ vs.length % 2 = 0) (h4 : (b % 4 = 0 ∧ vs.length % 4 = 0) ∨ b + vs.length ≤ 0x1000) :
    (m.storeBytes b vs).wholeEntries where
  inBuf i hi := Memory.wholeAt_two.1 (Memory.wholeAt_storeBytes (Memory.wholeAt_two.2 (h.inBuf i hi)) b vs
    (by simp only [inBufOffset, inBufBase]; omega))
  chunkBuf i hi := Memory.wholeAt_two.1 (Memory.wholeAt_storeBytes (Memory.wholeAt_two.2 (h.chunkBuf i hi)) b vs
    (by simp only [chunkBufOffset, chunkBufBase]; omega))
  denBuf i hi := Memory.wholeAt_two.1 (Memory.wholeAt_storeBytes (Memory.wholeAt_two.2 (h.denBuf i hi)) b vs
    (by simp only [denBufOffset, denBufBase]; omega))
  decIn i hi := Memory.wholeAt_storeBytes (h.decIn i hi) b vs (by simp only [decInOffset, decInBase]; omega)
  decOut i hi := Memory.wholeAt_storeBytes (h.decOut i hi) b vs (by simp only [decOutOffset, decOutBase]; omega)

/-- The stores of a frame keep every entry whole. -/
theorem State.wholeEntries_storeFrame (s : State) (x : Vector F32 480) {m : Memory} (h : m.wholeEntries) :
    (s.storeFrame x m).wholeEntries :=
  s.storeFrame_induction (P := Memory.wholeEntries) x h
    (fun _ vs hm hl => hm.storeBytes _ _ (by rw [halves_length, hl]; decide) (by rw [halves_length, hl]; decide))
    (fun _ vs hm hl => hm.storeBytes _ _ (by rw [halves_length, hl]; decide) (by rw [halves_length, hl]; decide))

/-- A host store keeps every entry whole. -/
theorem State.wholeEntries_hostStore {s : State} (h : s.mem.wholeEntries) {off size : Nat} (v : Word)
    (hl : legalAccess off size = true) : (s.hostStore off size v).mem.wholeEntries := by
  rcases s.hostStore_cases off size v with ⟨_, e⟩ | ⟨hr, e⟩ | ⟨_, _, _, e⟩ <;> rw [e]
  · exact h
  · have hlen := writtenBytes_length size v (legalAccess_size hl)
    refine h.storeBytes off _ ?_ ?_ <;> rw [hlen] <;> rcases legalAccess_size hl with rfl | rfl
    · have := (legalAccess_word off).1 hl
      omega
    · have := (legalAccess_half off).1 hl
      omega
    · have := (legalAccess_word off).1 hl
      omega
    · have hhalf := (allowsHalf_iff off).1 ((legalAccess_half off).1 hl).2
      rw [regionAt_eq_inBuf_iff, regionAt_eq_decIn_iff] at hr
      omega
  · exact h

/-- A command keeps every entry whole. -/
theorem CommandEnd.wholeEntries {i : Instr} {s t : State} (he : CommandEnd s i t) (h : s.mem.wholeEntries) :
    t.mem.wholeEntries := by
  rcases he.stores with ⟨hmem, _⟩ | ⟨n, xs, rfl, _, _, rfl⟩ | ⟨n, xs, rfl, rfl⟩
  · exact hmem ▸ h
  · exact s.runFrame_mem _ ▸ s.wholeEntries_storeFrame _ h
  · have hb : decOutOffset 0 % 4 = 0 := by decide
    exact h.storeBytes (decOutOffset 0) _ (by rw [words_length]; omega) (by rw [words_length]; omega)

/-- Settles O60: every store covers whole elements, whoever makes it. -/
theorem everyStepKeepsEntriesWhole : Obligations.EveryStepKeepsEntriesWhole := by
  intro s t hs h
  rcases step_next_cases h with ⟨_, rfl⟩ | ⟨off, size, rest, _, _, ⟨_, rfl⟩ | ⟨_, rfl⟩⟩ |
    ⟨off, size, v, rest, _, hl, _, _, rfl⟩ | ⟨w, rest, u, _, _, hu, rfl⟩ | ⟨rest, _, rfl⟩
  · exact hs
  · exact hs
  · exact hs
  · exact State.wholeEntries_hostStore (s := { s with host := rest }) hs v hl
  · rcases execWord_end hu with ⟨_, rfl⟩ | ⟨i, _, he⟩
    · exact hs
    · exact he.wholeEntries hs
  · obtain ⟨_, hreset⟩ := invariantHoldsAtReset
    exact hreset

end Sys2Proof.Machine

/-! PROOFS. What the registers read as (10_state.md R50 to R56), what a host access is, stores and leaves alone
(20_memory.md R77 to R83), the faults of a step (60_exceptions.md R249) and a hardware reset
(70_reset_and_hazards.md R270), with the proofs of these rules. -/

namespace Sys2Proof.Machine

/-! ### The registers (10_state.md R50, R52 to R56) -/

theorem State.readValue_cmd (s : State) : s.readValue 0x000 4 = s.cmdreg :=
  s.readValue_of_row (last := 0x0003) (reg := .cmd) (by decide) (fun _ _ => rfl)

theorem State.readValue_outcap (s : State) : s.readValue 0x008 4 = outcapWord s :=
  s.readValue_of_row (last := 0x000B) (reg := .outcap) (by decide) (fun _ _ => rfl)

theorem State.readValue_decCount (s : State) : s.readValue 0x00C 4 = decCountWord s :=
  s.readValue_of_row (last := 0x000F) (reg := .decCount) (by decide) (fun _ _ => rfl)

theorem State.readValue_phase (s : State) : s.readValue 0x010 4 = phaseWord s :=
  s.readValue_of_row (last := 0x0013) (reg := .phase) (by decide) (fun _ _ => rfl)

theorem State.readValue_widx (s : State) : s.readValue 0x014 4 = widxWord s :=
  s.readValue_of_row (last := 0x0017) (reg := .widx) (by decide) (fun _ _ => rfl)

theorem State.readValue_filled (s : State) : s.readValue 0x018 4 = filledWord s :=
  s.readValue_of_row (last := 0x001B) (reg := .filled) (by decide) (fun _ _ => rfl)

/-- The fields of an OUTCAP image: CCAP, DCAP, and zeros between and above them (R52). -/
theorem outcapWord_fields (s : State) :
    (outcapWord s).extractLsb' 0 8 = s.ccap ∧ (outcapWord s).extractLsb' 8 8 = 0#8 ∧
    (outcapWord s).extractLsb' 16 9 = s.dcap ∧ (outcapWord s).extractLsb' 25 7 = 0#7 := by
  unfold outcapWord
  refine ⟨BitVec.extractLsb'_append_eq_right, ?_, ?_, ?_⟩
  · rw [BitVec.extractLsb'_append_eq_of_le (by decide)]
    exact BitVec.extractLsb'_append_eq_right
  · rw [BitVec.extractLsb'_append_eq_of_le (by decide), BitVec.extractLsb'_append_eq_of_le (by decide)]
    exact BitVec.extractLsb'_append_eq_right
  · rw [BitVec.extractLsb'_append_eq_of_le (by decide), BitVec.extractLsb'_append_eq_of_le (by decide)]
    exact BitVec.extractLsb'_append_eq_left

/-- A register image that is a number below zeros reads as the number. -/
theorem toNat_zero_append_ofNat {m n : Nat} (k : Nat) (h : m < 2 ^ n) :
    (0#k ++ BitVec.ofNat n m).toNat = m := by
  rw [BitVec.toNat_append]
  simp [Nat.mod_eq_of_lt h]

/-- Settles O52: each register by its row, and the two links by the step of a read and of a write. -/
theorem registersShowTheState : Obligations.RegistersShowTheState := by
  refine fun s => ⟨s.readValue_cmd, s.readValue_outcap ▸ outcapWord_fields s, fun h => ?_, ?_, ?_, ?_,
    fun rest off size hb hl => step_read s rest hb hl, fun rest off size v hb hl hoff => ?_⟩
  · rw [s.readValue_decCount]
    exact toNat_zero_append_ofNat 25 (by omega)
  · rw [s.readValue_phase]
    exact toNat_zero_append_ofNat 29 (by omega)
  · rw [s.readValue_widx]
    exact toNat_zero_append_ofNat 25 (by omega)
  · rw [s.readValue_filled]
    exact toNat_zero_append_ofNat 24 (by omega)
  · have hc : regionAt off ≠ some .cmd := fun h => by have := (regionAt_eq_cmd_iff off).1 h; omega
    rw [step_write { s with host := _ } rfl hl hc (.inl hb)]
    unfold State.hostStore
    split <;> rfl

/-! ### What a legal host write stores (R78, R79) -/

/-- A byte after a legal write: one the write carries, if it lies in IN_BUF or DEC_IN, or as before. -/
theorem State.byte?_hostStore (s : State) {off size : Nat} (v : Word) (hl : legalAccess off size = true) (k : Nat) :
    (s.hostStore off size v).mem.byte? k =
      if (regionAt off = some .inBuf ∨ regionAt off = some .decIn) ∧ off ≤ k ∧ k < off + size then
        (writtenBytes size v)[k - off]?
      else s.mem.byte? k := by
  rcases s.hostStore_cases off size v with ⟨hr, e⟩ | ⟨hr, e⟩ | ⟨_, hr, hr', e⟩ <;> rw [e]
  · simp [hr]
  · simp only [Memory.byte?_storeBytes, writtenBytes_length size v (legalAccess_size hl), hr, true_and]
  · simp [hr, hr']

/-- A legal write to OUTCAP is a 32-bit write at its offset. -/
theorem eq_outcap_of_legalAccess {off size : Nat} (hl : legalAccess off size = true)
    (hr : regionAt off = some .outcap) : off = 0x008 := by
  have hoff := (regionAt_eq_outcap_iff off).1 hr
  rcases legalAccess_size hl with rfl | rfl
  · have := (legalAccess_word off).1 hl
    omega
  · have := (allowsHalf_iff off).1 ((legalAccess_half off).1 hl).2
    omega

/-- A legal write elsewhere than to OUTCAP leaves the capacities. -/
theorem State.hostStore_capacities (s : State) {off size : Nat} (v : Word) (hl : legalAccess off size = true)
    (h : off ≠ 0x008) : (s.hostStore off size v).ccap = s.ccap ∧ (s.hostStore off size v).dcap = s.dcap := by
  rcases s.hostStore_cases off size v with ⟨hr, _⟩ | ⟨_, e⟩ | ⟨_, _, _, e⟩
  · exact absurd (eq_outcap_of_legalAccess hl hr) h
  · rw [e]
    exact ⟨rfl, rfl⟩
  · rw [e]
    exact ⟨rfl, rfl⟩

/-- A legal write reaches no byte outside IN_BUF and DEC_IN. -/
theorem State.byte?_hostStore_of_not_input (s : State) {off size : Nat} (v : Word)
    (hl : legalAccess off size = true) {k : Nat} (hin : k < 0x0400 ∨ 0x07C0 ≤ k) (hdec : k < 0x1000 ∨ 0x1780 ≤ k) :
    (s.hostStore off size v).mem.byte? k = s.mem.byte? k := by
  rw [s.byte?_hostStore v hl, if_neg]
  rintro ⟨hr, hle, hlt⟩
  have hk : regionAt (off + (k - off)) = regionAt off := regionAt_add_of_legalAccess hl (by omega)
  rw [Nat.add_sub_cancel' hle] at hk
  rw [← hk, regionAt_eq_inBuf_iff, regionAt_eq_decIn_iff] at hr
  omega

/-- Settles O54: a read changes `rdata` and the count of busy reads, a write what `hostStore` changes. -/
theorem hostAccessesLeaveCoreState : Obligations.HostAccessesLeaveCoreState := by
  refine ⟨step_idle, fun s t a rest hh hreset hcmd h => ?_⟩
  rcases step_next_cases h with ⟨hh', _⟩ | ⟨off, size, _, hh', _, ⟨_, rfl⟩ | ⟨_, rfl⟩⟩ |
    ⟨off, size, v, _, hh', hl, _, _, rfl⟩ | ⟨w, _, _, hh', _⟩ | ⟨_, hh', _⟩ <;> cases hh.symm.trans hh'
  · exact ⟨rfl, rfl, rfl, rfl, rfl, rfl, rfl, rfl, rfl, rfl, rfl, rfl, fun _ _ _ => ⟨rfl, rfl, fun _ => rfl⟩, nofun⟩
  · exact ⟨rfl, rfl, rfl, rfl, rfl, rfl, rfl, rfl, rfl, rfl, rfl, rfl, fun _ _ _ => ⟨rfl, rfl, fun _ => rfl⟩, nofun⟩
  · have hcap := State.hostStore_capacities { s with host := rest } v hl
    have hbyte := State.byte?_hostStore { s with host := rest } v hl
    have hinput := fun k => State.byte?_hostStore_of_not_input { s with host := rest } v hl (k := k)
    rw [State.hostStore_eq]
    refine ⟨rfl, rfl, rfl, rfl, rfl, rfl, rfl, rfl, rfl, rfl, rfl, rfl, nofun, ?_⟩
    rintro _ _ _ ⟨⟩
    refine ⟨hcap, rfl, fun k hk => (hbyte k).trans (if_neg (by omega)), hinput⟩
  · exact absurd rfl (hcmd w)
  · exact absurd rfl hreset

/-! ### A read after a write (R83) -/

/-- A 16-bit write to a buffer the host may write reads back. -/
theorem State.readValue_hostStore_half (s : State) {off : Nat} (v : Word) (hl : legalAccess off 2 = true)
    (hr : regionAt off = some .inBuf ∨ regionAt off = some .decIn) :
    (s.hostStore off 2 v).readValue off 2 = (v.setWidth 16).setWidth 32 := by
  have hstore : (s.hostStore off 2 v).mem = s.mem.storeHalves off [v.setWidth 16] := by
    rw [s.hostStore_buffer 2 v hr]
    simp [writtenBytes, Memory.storeHalves]
  refine State.readValue_of_half? _ ?_ fun k hk => ?_
  · rw [hstore]
    exact Memory.half?_storeHalves s.mem off 0 [v.setWidth 16] Nat.one_pos
  · rw [regionAt_add_of_legalAccess hl hk]
    rcases hr with hr | hr <;> rw [hr] <;> rfl

/-- A 32-bit write to a buffer the host may write reads back. -/
theorem State.readValue_hostStore_word (s : State) {off : Nat} (v : Word) (hl : legalAccess off 4 = true)
    (hr : regionAt off = some .inBuf ∨ regionAt off = some .decIn) :
    (s.hostStore off 4 v).readValue off 4 = v := by
  have hstore : (s.hostStore off 4 v).mem = s.mem.storeWords off [v] := by
    rw [s.hostStore_buffer 4 v hr]
    simp [writtenBytes, Memory.storeWords]
  refine State.readValue_of_word? _ ?_ fun k hk => ?_
  · rw [hstore]
    exact Memory.word?_storeWords s.mem off 0 [v] Nat.one_pos
  · rw [regionAt_add_of_legalAccess hl hk]
    rcases hr with hr | hr <;> rw [hr] <;> rfl

/-- Settles O53: the first step stores, the second reads what the store left at the same offset. -/
theorem readReturnsTheLastWrite : Obligations.ReadReturnsTheLastWrite := by
  intro s t u rest off size v hb hoff hh ht hu
  have hr : regionAt off = some .inBuf ∨ regionAt off = some .decIn :=
    hoff.imp (regionAt_eq_inBuf_iff off).2 (regionAt_eq_decIn_iff off).2
  obtain ⟨hl, _, _, rfl⟩ := step_write_next hh (by omega) ht
  obtain rfl := step_read_next (State.hostStore_host _ off size v) (by simpa using hb) hu
  rcases legalAccess_size hl with rfl | rfl
  · simp [State.readValue_hostStore_word _ v hl hr]
  · simp [State.readValue_hostStore_half _ v hl hr]

/-! ### Legal and illegal accesses (R77) -/

/-- The legal accesses, in offsets. -/
theorem legalAccess_iff (off size : Nat) : legalAccess off size = true ↔
    (size = 4 ∧ off % 4 = 0 ∧ off ≤ 0x3FFC) ∨
    (size = 2 ∧ off % 2 = 0 ∧
      ((0x001C ≤ off ∧ off ≤ 0x0FFE) ∨ (0x1780 ≤ off ∧ off ≤ 0x17FE) ∨ (0x1940 ≤ off ∧ off ≤ 0x1FFE) ∨
       (0x2180 ≤ off ∧ off ≤ 0x23FE) ∨ (0x2580 ≤ off ∧ off ≤ 0x27FE) ∨ (0x2A80 ≤ off ∧ off ≤ 0x3FFE))) := by
  by_cases h4 : size = 4
  · subst h4
    rw [legalAccess_word]
    omega
  by_cases h2 : size = 2
  · subst h2
    rw [legalAccess_half, allowsHalf_iff]
    omega
  · simp [legalAccess, h4, h2]

/-- A command's only fault is the one for an unwritten input. -/
theorem runCommand_fault {w : Word} {s : State} {f : Fault} (h : runCommand w s = .fault f) :
    f = .hostProtocol .unwrittenInput ∧ execWord w (s.beginCommand w) = .fault f := by
  unfold runCommand at h
  rcases execWord_outcome w (s.beginCommand w) with ⟨t, e⟩ | e <;> rw [e] at h
  · cases h
  · obtain rfl := Host.Outcome.fault.inj h
    exact ⟨rfl, e⟩

/-! ### Accesses while `busy` = 1 (R81) -/

/-- The locations whose writes are faults while `busy` = 1. -/
theorem step_write_busy (s : State) (rest : List HostAction) {off size : Nat} (v : Word) (hb : s.busy = true)
    (hl : legalAccess off size = true) (hw : (regionAt off).any Region.hostWritable = true) :
    step { s with host := .write off size v :: rest } = .fault (.hostProtocol .accessWhileBusy) := by
  rw [step_cons _ _ rest rfl]
  rcases hostWrite_cases off size v { s with host := rest } with
    ⟨hl', _⟩ | ⟨_, _, _, e⟩ | ⟨_, _, hb', _⟩ | ⟨_, _, hb' | hw', _⟩
  · simp [hl] at hl'
  · simp only [hostAct, e]
  · simp [hb] at hb'
  · simp [hb] at hb'
  · simp [hw] at hw'

/-- A legal read while `busy` = 1 answers a free value. -/
theorem step_read_busy (s : State) (rest : List HostAction) {off size : Nat} (hb : s.busy = true)
    (hl : legalAccess off size = true) : step { s with host := .read off size :: rest } = .next { s with
      host := rest
      rdata := some { size := size, value := State.busyValue { s with host := rest } off size }
      draws := { s.draws with busyRead := s.draws.busyRead + 1 } } := by
  rw [step_cons _ _ rest rfl]
  rcases hostRead_cases off size { s with host := rest } with ⟨hl', _⟩ | ⟨_, _, e⟩ | ⟨_, hb', _⟩
  · simp [hl] at hl'
  · simp only [hostAct, e]
  · simp [hb] at hb'

/-- STATUS read while `busy` = 1 shows BUSY. -/
theorem State.busyValue_status (s : State) (size : Nat) : (s.busyValue 0x004 size).getLsbD 6 = true := by
  rw [State.busyValue, if_pos (by decide : regionAt 0x004 = some .status)]
  simp

/-- A 16-bit value has zeros above bit 15. -/
theorem extractLsb'_truncateTo_half (v : Word) : (truncateTo 2 v).extractLsb' 16 16 = 0#16 := by
  refine BitVec.eq_of_getLsbD_eq fun i hi => ?_
  simp [truncateTo]

/-- A 16-bit read while `busy` = 1 answers 16 bits: it is not of STATUS, which is read whole. -/
theorem State.busyValue_half (s : State) {off : Nat} (hl : legalAccess off 2 = true) :
    (s.busyValue off 2).extractLsb' 16 16 = 0#16 := by
  have hr : regionAt off ≠ some .status := fun h => by
    have := ((legalAccess_half off).1 hl).2
    rw [h] at this
    cases this
  rw [State.busyValue, if_neg hr]
  exact extractLsb'_truncateTo_half _

/-- Settles O50: the write is a fault by its location, and the read's value is `busyValue`. -/
theorem accessWhileBusy : Obligations.AccessWhileBusy := by
  refine fun s rest off size v hb hl => ⟨fun hoff => ?_, _, step_read_busy s rest hb hl, ?_, ?_⟩
  · exact step_write_busy s rest v hb hl ((hostWritable_iff off).2 hoff)
  · rintro rfl
    exact State.busyValue_status _ size
  · rintro rfl
    exact State.busyValue_half _ hl

/-! ### The complete list of faults (60_exceptions.md R249) -/

/-- A command faults exactly when it consumes an entry never written. -/
theorem exec_fault_iff (i : Instr) (s : State) (f : Fault) : exec i s = .fault f ↔
    f = .hostProtocol .unwrittenInput ∧ s.valid = true ∧
      ((∃ n, i = .pframe n ∧ n ≠ 0 ∧ s.frameInput n = none) ∨
       (∃ n, i = .dpush n ∧ n ≤ 480 ∧ s.decinInput n = none)) := by
  constructor
  · intro h
    cases i with
    | create fe => cases (exec_create fe s).symm.trans h
    | destroy => cases (exec_destroy s).symm.trans h
    | reset => rcases execReset_cases s with ⟨_, e⟩ | ⟨_, e⟩ <;> cases e.symm.trans h
    | pframe n =>
      rcases execPframe_cases n s with ⟨_, e⟩ | ⟨_, _, e⟩ | ⟨hv, hn, hx, e⟩ | ⟨_, _, _, _, e⟩ <;> cases e.symm.trans h
      exact ⟨rfl, hv, .inl ⟨n, rfl, hn, hx⟩⟩
    | dpush n =>
      rcases execDpush_cases n s with ⟨_, e⟩ | ⟨_, _, e⟩ | ⟨hv, hn, hx, e⟩ | ⟨_, _, _, _, e⟩ <;> cases e.symm.trans h
      exact ⟨rfl, hv, .inr ⟨n, rfl, hn, hx⟩⟩
  · rintro ⟨rfl, hv, ⟨n, rfl, hn, hx⟩ | ⟨n, rfl, hn, hx⟩⟩
    · exact exec_pframe_of_unwritten hv hn hx
    · exact exec_dpush_of_unwritten hv hn hx

/-- A command write faults exactly when its word decodes to a command that consumes an entry never written. -/
theorem runCommand_fault_iff (w : Word) (s : State) (f : Fault) : runCommand w s = .fault f ↔
    f = .hostProtocol .unwrittenInput ∧ s.valid = true ∧
      ((∃ n, decode w = .ok (.pframe n) ∧ n ≠ 0 ∧ s.frameInput n = none) ∨
       (∃ n, decode w = .ok (.dpush n) ∧ n ≤ 480 ∧ s.decinInput n = none)) := by
  have hrun : runCommand w s = .fault f ↔ execWord w (s.beginCommand w) = .fault f :=
    ⟨fun h => (runCommand_fault h).2, fun h => by simp only [runCommand, h]⟩
  rw [hrun]
  cases hd : decode w with
  | illegal e => simp [execWord_illegal hd]
  | ok i =>
    rw [execWord_ok hd, exec_fault_iff]
    simp only [Decoded.ok.injEq]
    rfl

/-- No step is refused. -/
theorem step_ne_refused (s : State) (r : Refusal) : step s ≠ .refused r := by
  cases hh : s.host with
  | nil => simp [step_idle s hh]
  | cons a rest =>
    rw [step_cons s a rest hh]
    cases hostAct a { s with host := rest } with
    | done t => exact nofun
    | stop f => exact nofun
    | command w t =>
      dsimp only [runCommand]
      rcases execWord_outcome w (t.beginCommand w) with ⟨u, e⟩ | e <;> rw [e] <;> exact nofun

/-- A read faults exactly when it is illegal. -/
theorem step_read_fault_iff {s : State} {rest : List HostAction} {off size : Nat}
    (hh : s.host = .read off size :: rest) (f : Fault) :
    step s = .fault f ↔ f = .hostProtocol .busError ∧ legalAccess off size = false := by
  rw [step_cons s _ rest hh]
  rcases hostRead_cases off size { s with host := rest } with ⟨hl, e⟩ | ⟨hl, _, e⟩ | ⟨hl, _, e⟩ <;>
    simp only [hostAct, e, hl]
  · simp [eq_comm (a := f)]
  · simp
  · simp

/-- A write faults when it is illegal, when it is made while `busy` = 1 to a location the host may write, and when it
starts a command that faults. -/
theorem step_write_fault_iff {s : State} {rest : List HostAction} {off size : Nat} {v : Word}
    (hh : s.host = .write off size v :: rest) (f : Fault) : step s = .fault f ↔
      (f = .hostProtocol .busError ∧ legalAccess off size = false) ∨
      (f = .hostProtocol .accessWhileBusy ∧ s.busy = true ∧ legalAccess off size = true ∧
        (regionAt off).any Region.hostWritable = true) ∨
      (off = 0 ∧ size = 4 ∧ s.busy = false ∧ runCommand v { s with host := rest } = .fault f) := by
  have hcmd : legalAccess 0 4 = true := by decide
  rw [step_cons s _ rest hh]
  rcases hostWrite_cases off size v { s with host := rest } with
    ⟨hl, e⟩ | ⟨hl, hb, hw, e⟩ | ⟨rfl, rfl, hb, e⟩ | ⟨hl, hc, hbw, e⟩ <;> simp only [hostAct, e]
  · have hne : ¬ (off = 0 ∧ size = 4) := by rintro ⟨rfl, rfl⟩; cases hcmd.symm.trans hl
    rw [hl, ← and_assoc (a := off = 0)]
    simp [hne, eq_comm (a := f)]
  · have hb : s.busy = true := hb
    rw [hl, hb, hw]
    simp [eq_comm (a := f)]
  · have hb : s.busy = false := hb
    rw [hcmd, hb]
    simp
  · have hne : off ≠ 0 := fun h => hc ((regionAt_eq_cmd_iff off).2 (by omega))
    have hbw : s.busy = false ∨ (regionAt off).any Region.hostWritable = false := hbw
    rw [hl]
    rcases hbw with h | h <;> simp [h, hne]

/-- Settles O18: a step is idle, a reset, a read or a write, and a read's and a write's faults are these. -/
theorem faultsAreExactlyTheListed : Obligations.FaultsAreExactlyTheListed := by
  refine fun s => ⟨step_ne_refused s, fun f => ⟨fun h => ?_, ?_⟩⟩
  · match hh : s.host with
    | [] => cases (step_idle s hh).symm.trans h
    | .hardwareReset :: rest => cases (step_cons s _ rest hh).symm.trans h
    | .read off size :: rest =>
      obtain ⟨rfl, hl⟩ := (step_read_fault_iff hh f).1 h
      exact ⟨_, rest, rfl, .inl ⟨rfl, .inl ⟨off, size, rfl, hl⟩⟩⟩
    | .write off size v :: rest =>
      refine ⟨_, rest, rfl, ?_⟩
      rcases (step_write_fault_iff hh f).1 h with ⟨rfl, hl⟩ | ⟨rfl, hb, hl, hw⟩ | ⟨rfl, rfl, hb, hrun⟩
      · exact .inl ⟨rfl, .inr ⟨off, size, v, rfl, hl⟩⟩
      · exact .inr (.inl ⟨rfl, hb, off, size, v, rfl, hl, (hostWritable_iff off).1 hw⟩)
      · obtain ⟨rfl, hv, hd⟩ := (runCommand_fault_iff _ _ f).1 hrun
        simp only [State.frameInput_eq_none, State.decinInput_eq_none] at hd
        exact .inr (.inr ⟨rfl, hb, hv, v, rfl, hd⟩)
  · rintro ⟨a, rest, hh, ⟨rfl, ⟨off, size, rfl, hl⟩ | ⟨off, size, v, rfl, hl⟩⟩ |
      ⟨rfl, hb, off, size, v, rfl, hl, hw⟩ | ⟨rfl, hb, hv, w, rfl, hd⟩⟩
    · exact (step_read_fault_iff hh _).2 ⟨rfl, hl⟩
    · exact (step_write_fault_iff hh _).2 (.inl ⟨rfl, hl⟩)
    · exact (step_write_fault_iff hh _).2 (.inr (.inl ⟨rfl, hb, hl, (hostWritable_iff off).2 hw⟩))
    · refine (step_write_fault_iff hh _).2 (.inr (.inr ⟨rfl, rfl, hb, (runCommand_fault_iff _ _ _).2 ⟨rfl, hv, ?_⟩⟩))
      simp only [State.frameInput_eq_none, State.decinInput_eq_none]
      exact hd

/-- Settles O45: of the faults of a read and of a write, the bus error is the one of the illegal accesses. -/
theorem illegalAccessesAreBusErrors : Obligations.IllegalAccessesAreBusErrors := by
  intro s rest off size v
  dsimp only
  rw [← legalAccess_iff, Bool.not_eq_true]
  refine ⟨(step_read_fault_iff rfl _).trans (and_iff_right rfl), (step_write_fault_iff rfl _).trans ⟨?_, fun hl => ?_⟩⟩
  · rintro (⟨_, hl⟩ | ⟨hf, _⟩ | ⟨_, _, _, hrun⟩)
    · exact hl
    · cases hf
    · cases (runCommand_fault hrun).1
  · exact .inl ⟨rfl, hl⟩

/-! ### Hardware reset (R270) -/

/-- A byte of a RAM buffer that has not been written reads as the free power-on byte. -/
theorem State.windowByte_of_unwritten (s : State) {off : Nat} (hb : s.mem.byte? off = none)
    (h : (regionAt off).any Region.isRam = true) : s.windowByte off = Config.powerOnByte s.draws.powerOn off := by
  obtain ⟨reg, hreg, hram⟩ := (Option.any_eq_true _ _).1 h
  obtain ⟨k, hk⟩ := s.windowByte_of_regionAt hreg
  rw [hk, s.regionByte_of_isRam off k hram, State.ramByte, hb, Option.getD_none]

/-- Settles O56: the step is `State.hardwareReset`, after which no byte is written. -/
theorem hardwareResetRestoresPowerOn : Obligations.HardwareResetRestoresPowerOn := fun _ _ =>
  ⟨_, rfl, rfl, fun _ h => State.windowByte_of_unwritten _ rfl h⟩

end Sys2Proof.Machine

/-! PROOFS. The inner product, the history and the outputs of the Decimator (40_decimator.md R134, R138, R141) and what
a DPUSH writes (R142); then the frame, the Packer and what a PFRAME writes (41_frame_packer.md R173, R178 to R184). -/

namespace Sys2Proof.Machine

/-! ### The inner product (R134) -/

/-- The loop over one more tap adds that tap's product last. -/
theorem firLoop_append_singleton (n : Nat) (c x : F32) (l : List (F32 × F32)) (k : Nat) (a : F32) :
    firLoop n k a (l ++ [(c, x)]) =
      fadd (nanResult n (2 * (k + l.length) + 1)) (firLoop n k a l) (fmul (nanResult n (2 * (k + l.length))) c x) := by
  induction l generalizing k a with
  | nil => rfl
  | cons p l ih =>
    simp only [List.cons_append, firLoop, ih, List.length_cons, show k + 1 + l.length = k + (l.length + 1) by omega]

/-- One tap of the inner product: the product, rounded, and the sum, rounded (R134). -/
def firTap (coef : Vector F32 96) (n : Nat) (w : Vector F32 96) (k : Nat) (h : k < 96) (a : F32) : F32 :=
  fadd (nanResult n (2 * k + 1)) a (fmul (nanResult n (2 * k)) coef[k] w[k])

/-- The loop over the first `i` taps is the fold over them in ascending order. -/
theorem firLoop_take (coef : Vector F32 96) (n : Nat) (w : Vector F32 96) (a : F32) (i : Nat) (hi : i ≤ 96) :
    firLoop n 0 a ((coef.toList.zip w.toList).take i) =
      Nat.fold i (fun k h a => firTap coef n w k (h.trans_le hi) a) a := by
  induction i with
  | zero => rfl
  | succ i ih =>
    have hl : i < (coef.toList.zip w.toList).length := by simp; omega
    rw [List.take_succ_eq_append_getElem hl, List.getElem_zip, firLoop_append_singleton, ih (by omega), Nat.fold_succ]
    simp [firTap, Nat.min_eq_left (show i ≤ 96 by omega)]

/-- The inner product is the fold over the 96 taps. -/
theorem firDot_eq_fold (coef : Vector F32 96) (n : Nat) (w : Vector F32 96) :
    firDot coef n w.toList = Nat.fold 96 (firTap coef n w) F32.zero := by
  rw [← firLoop_take coef n w F32.zero 96 le_rfl, List.take_of_length_le (by simp)]
  rfl

/-- A zero of either sign added to +0.0 is +0.0. -/
theorem fadd_zero_zero (nan : F32) {p : F32} (h : p = 0x00000000#32 ∨ p = 0x80000000#32) :
    fadd nan F32.zero p = F32.zero := by
  rcases h with rfl | rfl <;> rfl

/-- A fold whose every step keeps a value ends with it. -/
theorem fold_eq_of_fixed {α : Type} (m : Nat) (f : (k : Nat) → k < m → α → α) (a : α) (h : ∀ k hk, f k hk a = a) :
    Nat.fold m f a = a := by
  induction m with
  | zero => rfl
  | succ m ih => rw [Nat.fold_succ, ih _ fun k hk => h k _, h]

/-- Settles O20: the loop is the fold, and a zero product leaves the sum at +0.0. -/
theorem firDotSumsInAscendingOrder : Obligations.FirDotSumsInAscendingOrder := by
  refine fun coef n w => ⟨firDot_eq_fold coef n w, fun h => ?_⟩
  rw [firDot_eq_fold]
  exact fold_eq_of_fixed 96 _ _ fun k hk => fadd_zero_zero _ (h k hk)

/-! ### The window slides over the stream (R133, R138) -/

/-- An insertion drops the window's oldest sample and appends the new one. -/
theorem window_decInsert (d : DecimatorState) (x : F32) : window (decInsert d x) = (window d).tail ++ [x] := by
  have hw := d.widx.isLt
  refine List.ext_getElem (by simp) fun k hk _ => ?_
  have hk' : k < 96 := by simpa using hk
  simp only [window_getElem, decInsert_hist, decInsert_widx]
  by_cases hlast : k = 95
  · rw [if_pos (by omega), List.getElem_append_right (by simp [hlast])]
    simp
  · rw [if_neg (by omega), List.getElem_append_left (by simp; omega), List.getElem_tail, window_getElem]
    simp only [show ((d.widx.val + 1) % 96 + k) % 96 = (d.widx.val + (k + 1)) % 96 by omega]

/-- A DecStep leaves the window that its insertion leaves. -/
theorem window_decStep (coef : Vector F32 96) (n : Nat) (d : DecimatorState) (x : F32) :
    window (decStep coef n d x).1 = (window d).tail ++ [x] := by
  rw [← window_decInsert]
  unfold decStep
  split <;> rfl

/-- Dropping one more value from the window and the stream after it is sliding the window by one sample. -/
theorem drop_window_append_cons (d : DecimatorState) (x : F32) (xs : List F32) (m : Nat) :
    (window d ++ x :: xs).drop (m + 1) = ((window d).tail ++ [x] ++ xs).drop m := by
  obtain ⟨y, w, hw⟩ : ∃ y w, window d = y :: w := List.exists_cons_of_length_pos (by simp)
  simp [hw]

/-- After a run the window is the last 96 values of the window before it and the samples. -/
theorem window_decProcess (coef : Vector F32 96) (xs : List F32) (d : DecimatorState) (n : Nat) :
    window (decProcess coef d n xs).dec = (window d ++ xs).drop xs.length := by
  induction xs generalizing d n with
  | nil => simp
  | cons x xs ih => simp only [decProcess_cons, ih, window_decStep, List.length_cons, drop_window_append_cons]

/-- The window of a cleared Decimator is 96 values +0.0. -/
theorem window_cleared : window DecimatorState.cleared = List.replicate 96 F32.zero := by
  refine List.ext_getElem (by simp) fun k _ _ => ?_
  rw [window_getElem, DecimatorState.cleared_hist_getElem, List.getElem_replicate]

/-- Settles O25: the window after the run, value by value, and the two counters from 0. -/
theorem historyHoldsTheLastSamples : Obligations.HistoryHoldsTheLastSamples := by
  intro coef n xs
  refine ⟨fun k hk => ?_, ?_, ?_⟩
  · rw [← window_getElem? _ hk]
    have hwin := window_decProcess coef xs DecimatorState.cleared n
    rw [window_cleared] at hwin
    exact (congrArg (·[k]?) hwin).trans List.getElem?_drop
  · rw [decProcess_phase]
    exact congrArg (· % 6) (Nat.zero_add _)
  · rw [decProcess_widx]
    exact congrArg (· % 96) (Nat.zero_add _)

/-! ### The outputs of a stream (R141) -/

/-- Output `j` of a run: the inner product over the window and the samples after it, from sample `6 (j + 1)` less the
phase on. -/
theorem decProcess_out (coef : Vector F32 96) (xs : List F32) (d : DecimatorState) (n : Nat) :
    (decProcess coef d n xs).out = (List.range ((d.phase.val + xs.length) / 6)).map fun j =>
      firDot coef (n + j) (((window d ++ xs).drop (6 * (j + 1) - d.phase.val)).take 96) := by
  induction xs generalizing d n with
  | nil =>
    have := d.phase.isLt
    simp [Nat.div_eq_of_lt this]
  | cons x xs ih =>
    have hphase := d.phase.isLt
    have hwin : (window (decInsert d x)).length = 96 := window_length _
    by_cases h : d.phase.val + 1 < 6
    · have hslide (j : Nat) : 6 * (j + 1) - d.phase.val = 6 * (j + 1) - (d.phase.val + 1) + 1 := by omega
      rw [decProcess_quiet _ _ _ _ _ h, ih]
      simp only [hslide, drop_window_append_cons, List.length_cons, ← window_decInsert,
        show d.phase.val + (xs.length + 1) = d.phase.val + 1 + xs.length by omega]
      rfl
    · have hslide (j : Nat) : 6 * (j + 1) - d.phase.val = 6 * j + 1 := by omega
      rw [decProcess_emit _ _ _ _ _ h]
      dsimp only
      rw [ih]
      simp only [hslide, drop_window_append_cons, List.length_cons, ← window_decInsert,
        show (d.phase.val + (xs.length + 1)) / 6 = xs.length / 6 + 1 by omega, List.range_succ_eq_map,
        List.map_cons, List.map_map, Fin.val_zero, Nat.zero_add, Nat.sub_zero, Nat.add_zero, Nat.mul_zero,
        List.drop_zero, List.take_left' hwin]
      refine congrArg _ (List.map_congr_left fun j _ => ?_)
      simp only [Function.comp, Nat.succ_eq_add_one, show n + 1 + j = n + (j + 1) by omega]
      rfl

/-- Settles O27: a cleared Decimator has phase 0 and a window of 96 values +0.0. -/
theorem outputsAreTheClosedForm : Obligations.OutputsAreTheClosedForm := by
  intro coef n xs
  have h := decProcess_out coef xs DecimatorState.cleared n
  rw [window_cleared] at h
  simpa [DecimatorState.cleared] using h

/-- Settles O37: 480 is a multiple of 6 and of 96. -/
theorem frameGivesEightyOutputs : Obligations.FrameGivesEightyOutputs := by
  intro coef d n y
  have hphase := d.phase.isLt
  have hwidx := d.widx.isLt
  refine ⟨?_, Fin.ext ?_, Fin.ext ?_⟩
  · rw [decProcess_out_length, Vector.length_toList]
    omega
  · rw [decProcess_phase, Vector.length_toList]
    omega
  · rw [decProcess_widx, Vector.length_toList]
    omega

/-! ### What a DPUSH writes (R142) -/

/-- Settles O29: DPUSH's ends; the outputs are stored from the start of `decout`. -/
theorem dpushWritesOnlyItsOutputs : Obligations.DpushWritesOnlyItsOutputs := by
  intro s t n h
  cases exec_end h with
  | noSession _ =>
    exact ⟨⟨rfl, rfl, rfl, rfl, rfl, rfl, rfl, rfl, rfl, rfl, rfl, rfl⟩, fun _ => ⟨rfl, rfl, rfl, rfl⟩,
      fun h0 => absurd h0 (by decide : codeHandle ≠ codeOk)⟩
  | overlongPush _ _ =>
    exact ⟨⟨rfl, rfl, rfl, rfl, rfl, rfl, rfl, rfl, rfl, rfl, rfl, rfl⟩, fun _ => ⟨rfl, rfl, rfl, rfl⟩,
      fun h0 => absurd h0 (by decide : codeInput ≠ codeOk)⟩
  | @push _ xs _ hn hx =>
    obtain ⟨hl, hentries⟩ := (s.decinInput_eq_some n xs).1 hx
    exact ⟨⟨rfl, rfl, rfl, rfl, rfl, rfl, rfl, rfl, rfl, rfl, rfl, rfl⟩, fun h0 => absurd rfl h0,
      fun _ => ⟨xs, hl, hentries, rfl, s.decRun_out_length_le (hl.trans_le hn),
        fun i hi => Memory.word?_storeWords s.mem (decOutOffset 0) i _ hi,
        fun a ha => Memory.byte?_storeWords_of_outside s.mem (decOutOffset 0) a _ ha⟩⟩

/-! ### The frame (41_frame_packer.md R173) -/

/-- Settles O33: a sample of the frame is the conversion of the value gathered at its place, if there is one. -/
theorem frameIsConvertedAndPadded : Obligations.FrameIsConvertedAndPadded := by
  intro s n xs hx i hi
  obtain ⟨hl, hentries⟩ := (s.frameInput_eq_some n xs).1 hx
  refine ⟨fun h => ⟨xs[i], hentries i (by omega), ?_⟩, fun h => ?_⟩
  · simp [assembleFrame_getElem, show i < xs.length by omega]
  · simp [assembleFrame_getElem, List.getElem?_eq_none (show xs.length ≤ i by omega)]

/-! ### PackStep (41_frame_packer.md R180, R184) -/

/-- The accumulator after a PackStep: the outputs that fit, from `filled` on. -/
theorem packStep_acc (p : FramePackerState) (out : List F32) :
    (packStep p out).1.acc = writeCells p.acc p.filled.val (out.take (160 - p.filled.val)) := by
  by_cases h : p.filled.val + out.length < 160
  · rw [packStep_filling p out h, List.take_of_length_le (by omega)]
  · rw [packStep_complete p out (by omega)]

/-- A cell of the accumulator after a PackStep. -/
theorem packStep_acc_getElem (p : FramePackerState) (out : List F32) (i : Nat) (hi : i < 160) :
    (packStep p out).1.acc[i] =
      if h : p.filled.val ≤ i ∧ i < p.filled.val + out.length then out[i - p.filled.val]'(by omega) else p.acc[i] := by
  have hfilled := p.filled.isLt
  simp only [packStep_acc, writeCells_getElem, List.length_take, List.getElem_take]
  split_ifs
  · rfl
  · omega
  · omega
  · rfl

/-- Settles O35: the cells one by one, and the two ends of a PackStep. -/
theorem packStepAppendsAndCompletes : Obligations.PackStepAppendsAndCompletes := by
  intro p out
  have hfilled := p.filled.isLt
  refine ⟨fun j hj => ?_, fun i hi hout => ?_, fun h => ?_, fun h => ?_⟩
  · rw [packStep_acc_getElem, dif_pos (by omega)]
    simp
  · rw [packStep_acc_getElem, dif_neg (by omega)]
  · rw [packStep_filling p out (by omega)]
    exact ⟨by dsimp only; omega, rfl⟩
  · rw [packStep_complete p out (by omega)]
    exact ⟨rfl, rfl⟩

/-- Settles O36: a PackStep that completes a chunk overwrites every cell from `filled` on, and one that does not ends
below the cells it leaves. -/
theorem staleCellsAreNeverEmitted : Obligations.StaleCellsAreNeverEmitted := by
  intro p q out hfilled hacc
  have hcell (i : Nat) (hi : i < 160) (hin : i < p.filled.val + out.length) :
      (packStep q out).1.acc[i] = (packStep p out).1.acc[i] := by
    simp only [packStep_acc_getElem, hfilled]
    split_ifs with h
    · rfl
    · exact hacc i hi (by omega)
  by_cases h : p.filled.val + out.length < 160
  · have ep := packStep_filling p out h
    have eq := packStep_filling q out (hfilled ▸ h)
    refine ⟨by rw [ep, eq], by rw [ep, eq]; simp [hfilled], fun i hi hlt => hcell i hi ?_⟩
    rwa [ep] at hlt
  · have ep := packStep_complete p out (by omega)
    have eq := packStep_complete q out (by rw [hfilled]; omega)
    have hsame : (packStep q out).1.acc = (packStep p out).1.acc := Vector.ext fun i hi => hcell i hi (by omega)
    refine ⟨?_, by rw [ep, eq], fun i hi _ => by rw [hsame]⟩
    rw [packStep_acc, packStep_acc] at hsame
    rw [ep, eq, hsame]

/-! ### What a PFRAME writes (41_frame_packer.md R178, R180) -/

/-- A byte outside a store that is made, or any byte where the store is skipped, reads as before. -/
theorem Memory.byte?_storeHalves_or_skip_of_outside (m : Memory) {a b : Nat} (p : Prop) [Decidable p] (vs : List Half)
    (h : p → b < a ∨ a + 2 * vs.length ≤ b) : (if p then m.storeHalves a vs else m).byte? b = m.byte? b := by
  split_ifs with hp
  · exact m.byte?_storeHalves_of_outside a b vs (h hp)
  · rfl

/-- A byte outside the buffers that a frame delivers reads as before. -/
theorem State.byte?_storeFrame_of_outside (s : State) (x : Vector F32 480) (m : Memory) {a : Nat}
    (hden : s.fe = true ∧ 480 ≤ s.dcap.toNat → a < 0x0C00 ∨ 0x0C00 + 2 * 480 ≤ a)
    (hchunk : 160 ≤ s.pack.filled.val + 80 ∧ 160 ≤ s.ccap.toNat → a < 0x0800 ∨ 0x0800 + 2 * 160 ≤ a) :
    (s.storeFrame x m).byte? a = m.byte? a :=
  (Memory.byte?_storeHalves_or_skip_of_outside _ _ _
      (by rw [List.length_map, Vector.length_toList]; exact hchunk)).trans
    (Memory.byte?_storeHalves_or_skip_of_outside m _ _
      (by rw [List.length_map, Vector.length_toList]; exact hden))

/-- An entry of `chunkbuf` after a frame whose chunk is completed and delivered. -/
theorem State.half?_storeFrame_chunkBuf (s : State) (x : Vector F32 480) (m : Memory)
    (h : 160 ≤ s.pack.filled.val + 80 ∧ 160 ≤ s.ccap.toNat) (i : Nat) (hi : i < 160) :
    (s.storeFrame x m).half? (0x0800 + 2 * i) =
      some (f2s (packStep s.pack (s.decRun (s.denoiseStage x).1.toList).out).1.acc[i]) := by
  unfold State.storeFrame
  rw [if_pos h]
  refine (Memory.half?_storeHalves _ _ i _ (by simpa using hi)).trans ?_
  simp

/-- An entry of `denbuf` after a frame that is denoised and delivered. -/
theorem State.half?_storeFrame_denBuf (s : State) (x : Vector F32 480) (m : Memory)
    (h : s.fe = true ∧ 480 ≤ s.dcap.toNat) (i : Nat) (hi : i < 480) :
    (s.storeFrame x m).half? (0x0C00 + 2 * i) = some (f2s (s.denoiseStage x).1[i]) := by
  have hstored : (m.storeHalves 0x0C00 ((s.denoiseStage x).1.toList.map f2s)).half? (0x0C00 + 2 * i) =
      some (f2s (s.denoiseStage x).1[i]) :=
    (Memory.half?_storeHalves m 0x0C00 i _ (by simpa using hi)).trans (by simp)
  unfold State.storeFrame
  dsimp only
  rw [if_pos h]
  split_ifs
  · refine (Memory.half?_congr ?_ ?_).trans hstored <;>
      exact Memory.byte?_storeHalves_of_outside _ _ _ _ (by simp [chunkBufOffset, chunkBufBase]; omega)
  · exact hstored

/-- Settles O39: the stores of the frame, entry by entry and outside. -/
theorem pframeWritesOnlyItsOutputs : Obligations.PframeWritesOnlyItsOutputs := by
  intro s t n xs hv hn hx ht
  obtain rfl := Host.Outcome.next.inj (ht.symm.trans (exec_pframe_of_written hv (by omega) hx))
  simp only [State.runFrame_mem, ← State.denoiseStage_fst]
  exact ⟨s.half?_storeFrame_denBuf _ _, s.half?_storeFrame_chunkBuf _ _,
    fun a => s.byte?_storeFrame_of_outside _ _⟩

/-- The packer that an accepted frame leaves. -/
theorem State.runFrame_pack (s : State) (x : Vector F32 480) :
    (s.runFrame x).pack = (packStep s.pack (s.decRun (s.denoiseStage x).1.toList).out).1 := by
  rw [State.runFrame_eq, State.denoiseStage_fst]
  rfl

/-- Settles O42: the first frame fills cells 0 to 79, the second one cells 80 to 159. -/
theorem chunkIsTheTwoFramesOutputs : Obligations.ChunkIsTheTwoFramesOutputs := by
  intro s t s' t' n n' xs xs' hfill hv hn hx ht hpack hv' hn' hx' hcap ht'
  obtain rfl := Host.Outcome.next.inj (ht.symm.trans (exec_pframe_of_written hv (by omega) hx))
  obtain rfl := Host.Outcome.next.inj (ht'.symm.trans (exec_pframe_of_written hv' (by omega) hx'))
  have hfill' : s'.pack.filled.val = 80 := by
    rw [hpack, State.runFrame_filled, hfill]
    rfl
  rw [State.runFrame_pack] at hpack
  simp only [State.runFrame_mem, ← State.denoiseStage_fst]
  have hout := s.decRun_frame_length (s.denoiseStage (assembleFrame xs)).1
  have hout' := s'.decRun_frame_length (s'.denoiseStage (assembleFrame xs')).1
  simp only [State.decRun] at hout hout' hpack
  refine ⟨by simp [hout, hout'], fun i hi => ?_⟩
  rw [State.half?_storeFrame_chunkBuf _ _ _ ⟨by omega, hcap⟩ i hi, packStep_acc_getElem]
  simp only [State.decRun, hfill']
  split_ifs with h
  · rw [List.getElem?_append_right (by omega), hout, List.getElem?_eq_getElem (by omega)]
    rfl
  · simp only [hpack, packStep_acc_getElem, hfill]
    rw [dif_pos (by omega), List.getElem?_append_left (by omega), List.getElem?_eq_getElem (by omega)]
    rfl

end Sys2Proof.Machine

/-! PROOFS. What a step does to the session, the Packer and the outputs, and its proofs: the session flags
(42_session.md R217), the denoiser's calls (41_frame_packer.md R176), the chunk cadence (R183) and the outputs'
lifetimes (70_reset_and_hazards.md R276). -/

namespace Sys2Proof.Machine

/-! ### The next command -/

/-- The next command is that of a write to CMD of a word that decodes to it. -/
theorem State.nextCommand?_eq_some_iff {s : State} {i : Instr} : s.nextCommand? = some i ↔
    ∃ w rest, s.host = .write 0x000 4 w :: rest ∧ decode w = .ok i := by
  constructor
  · intro h
    unfold State.nextCommand? at h
    split at h
    next w rest hh =>
      cases hd : decode w with
      | illegal e => simp [hd] at h
      | ok j => exact ⟨w, rest, hh, by simpa [hd] using h⟩
    next => cases h
  · rintro ⟨w, rest, hh, hd⟩
    simp only [State.nextCommand?, hh, hd]

/-- There is no next command when the next action is no write to CMD of a word that decodes. -/
theorem State.nextCommand?_eq_none {s : State}
    (h : ∀ w rest i, s.host = .write 0x000 4 w :: rest → decode w ≠ .ok i) : s.nextCommand? = none := by
  refine Option.eq_none_iff_forall_ne_some.2 fun i hi => ?_
  obtain ⟨w, rest, hh, hd⟩ := State.nextCommand?_eq_some_iff.1 hi
  exact h w rest i hh hd

/-- No frame is accepted without a next command. -/
theorem State.nextAcceptsFrame_of_no_command {s : State} (h : s.nextCommand? = none) : s.nextAcceptsFrame = false := by
  simp only [State.nextAcceptsFrame, h]

/-- No frame is accepted without a session. -/
theorem State.nextAcceptsFrame_of_no_session {s : State} (h : s.valid = false) : s.nextAcceptsFrame = false := by
  unfold State.nextAcceptsFrame
  split
  · simp [h]
  · rfl

/-- A next PFRAME is accepted in a session when its length is not 0. -/
theorem State.nextAcceptsFrame_pframe {s : State} {n : Nat} (h : s.nextCommand? = some (.pframe n)) :
    s.nextAcceptsFrame = (s.valid && n != 0) := by
  simp only [State.nextAcceptsFrame, h]

/-- No other command is an accepted frame. -/
theorem State.nextAcceptsFrame_of_not_pframe {s : State} {i : Instr} (h : s.nextCommand? = some i)
    (hi : ∀ n, i ≠ .pframe n) : s.nextAcceptsFrame = false := by
  unfold State.nextAcceptsFrame
  split
  next n hn => exact absurd (Option.some.inj (h.symm.trans hn)) (hi n)
  next => rfl

/-- CREATE, RESET and DESTROY clear the session. -/
theorem State.nextClearsSession_of_command {s : State} {i : Instr} (h : s.nextCommand? = some i)
    (hi : (∃ fe, i = .create fe) ∨ i = .reset ∨ i = .destroy) : s.nextClearsSession = true := by
  obtain ⟨w, rest, hh, _⟩ := State.nextCommand?_eq_some_iff.1 h
  unfold State.nextClearsSession
  split
  · rfl
  · rcases hi with ⟨fe, rfl⟩ | rfl | rfl <;> simp only [h]

/-! ### What a step does to the session and the outputs -/

/-- What a step without a command leaves alone: the session, the Packer, `dcount`, the denoiser, and every byte outside
IN_BUF and DEC_IN. -/
structure State.KeepsOutputs (s t : State) : Prop where
  valid : t.valid = s.valid
  fe : t.fe = s.fe
  pack : t.pack = s.pack
  dcount : t.dcount = s.dcount
  denoise : t.draws.denoise = s.draws.denoise
  bytes : ∀ k, (k < 0x0400 ∨ 0x07C0 ≤ k) → (k < 0x1000 ∨ 0x1780 ≤ k) → t.mem.byte? k = s.mem.byte? k

/-- How a step ends that goes on. -/
inductive StepEnd (s : State) : State → Prop where
  /-- A hardware reset. -/
  | hardwareReset {rest : List HostAction} (hh : s.host = .hardwareReset :: rest) :
      StepEnd s (State.hardwareReset { s with host := rest })
  /-- No action, a host access that is no command write, or an illegal word. -/
  | quiet {t : State} (hc : s.nextCommand? = none) (hk : s.KeepsOutputs t) : StepEnd s t
  /-- A command. -/
  | command {w : Word} {rest : List HostAction} {i : Instr} {u : State} (hh : s.host = .write 0x000 4 w :: rest)
      (hd : decode w = .ok i) (he : CommandEnd (State.beginCommand w { s with host := rest }) i u) :
      StepEnd s u.endCommand

/-- A host access other than a command write is quiet (20_memory.md R79). -/
theorem State.KeepsOutputs.of_access {s t : State} {a : HostAction} {rest : List HostAction} (hh : s.host = a :: rest)
    (ha : (∃ off size, a = .read off size) ∨ ∃ off size v, a = .write off size v)
    (hcmd : ∀ w, a ≠ .write 0x000 4 w) (h : step s = .next t) : s.KeepsOutputs t := by
  have hreset : a ≠ .hardwareReset := by rintro rfl; rcases ha with ⟨_, _, e⟩ | ⟨_, _, _, e⟩ <;> cases e
  obtain ⟨hvalid, hfe, _, hpack, _, _, _, hdcount, _, _, _, hdraws, hread, hwrite⟩ :=
    hostAccessesLeaveCoreState.2 s t a rest hh hreset hcmd h
  refine ⟨hvalid, hfe, hpack, hdcount, by rw [hdraws], fun k hin hdec => ?_⟩
  rcases ha with ⟨off, size, rfl⟩ | ⟨off, size, v, rfl⟩
  · obtain ⟨_, _, hbyte⟩ := hread off size rfl
    exact hbyte k
  · obtain ⟨_, _, _, hbyte⟩ := hwrite off size v rfl
    exact hbyte k hin hdec

/-- A step that goes on ends in one of these ways. -/
theorem step_end {s t : State} (h : step s = .next t) : StepEnd s t := by
  match hh : s.host with
  | [] =>
    obtain rfl := Host.Outcome.next.inj ((step_idle s hh).symm.trans h)
    exact .quiet (State.nextCommand?_eq_none fun w rest i e => by simp [hh] at e)
      ⟨rfl, rfl, rfl, rfl, rfl, fun _ _ _ => rfl⟩
  | .hardwareReset :: rest =>
    obtain rfl := Host.Outcome.next.inj ((step_cons s _ rest hh).symm.trans h)
    exact .hardwareReset hh
  | .read off size :: rest =>
    exact .quiet (State.nextCommand?_eq_none fun w rest i e => by simp [hh] at e)
      (.of_access hh (.inl ⟨off, size, rfl⟩) nofun h)
  | .write off size v :: rest =>
    by_cases hcmd : off = 0x000 ∧ size = 4
    · obtain ⟨rfl, rfl⟩ := hcmd
      obtain ⟨_, hrun⟩ := step_command_next hh h
      obtain ⟨u, hu, rfl⟩ := runCommand_next hrun
      rcases execWord_end hu with ⟨⟨e, hd⟩, rfl⟩ | ⟨i, hd, he⟩
      · refine .quiet (State.nextCommand?_eq_none fun w' rest' i e' => ?_) ⟨rfl, rfl, rfl, rfl, rfl, fun _ _ _ => rfl⟩
        obtain ⟨rfl, rfl⟩ : v = w' ∧ rest = rest' := by simpa [hh] using e'
        simp [hd]
      · exact .command hh hd he
    · refine .quiet (State.nextCommand?_eq_none fun w rest i e => absurd ?_ hcmd)
        (.of_access hh (.inr ⟨off, size, v, rfl⟩) (fun w e => hcmd ?_) h)
      · simp only [hh, List.cons.injEq, HostAction.write.injEq] at e
        obtain ⟨⟨hoff, hsize, _⟩, _⟩ := e
        exact ⟨hoff, hsize⟩
      · simp only [HostAction.write.injEq] at e
        obtain ⟨hoff, hsize, _⟩ := e
        exact ⟨hoff, hsize⟩

/-! ### The session flags (R217) and the denoiser's calls (R176) -/

/-- Settles O14: of the ends of a step and of a command, only these leave another `valid` or `fe`. -/
theorem sessionFlagsFixedForTheSession : Obligations.SessionFlagsFixedForTheSession := by
  intro s t h hne
  cases step_end h with
  | hardwareReset hh => exact .inl ⟨_, hh⟩
  | quiet _ hk => exact absurd hne (by simp [hk.valid, hk.fe])
  | @command w rest i u hh hd he =>
    cases he with
    | createFailed _ => exact .inr ⟨w, rest, hh, .inl ⟨_, hd⟩⟩
    | created => exact .inr ⟨w, rest, hh, .inl ⟨_, hd⟩⟩
    | destroyed => exact .inr ⟨w, rest, hh, .inr hd⟩
    | noSession _ => exact absurd hne (by simp)
    | emptyFrame _ => exact absurd hne (by simp)
    | overlongPush _ _ => exact absurd hne (by simp)
    | sessionReset _ => exact absurd hne (by simp)
    | frame _ _ _ => exact absurd hne (by simp [State.runFrame])
    | push _ _ _ => exact absurd hne (by simp)

/-- A step accepts a frame and is its run, or it accepts none, calls no denoiser, and keeps the Packer unless it clears
the session. -/
theorem step_frame_or_keeps {s t : State} (h : step s = .next t) :
    (s.nextAcceptsFrame = true ∧ ∃ w rest xs,
      t = ((State.beginCommand w { s with host := rest }).runFrame (assembleFrame xs)).endCommand) ∨
    (s.nextAcceptsFrame = false ∧ t.draws.denoise = s.draws.denoise ∧
      (s.nextClearsSession = false → t.pack = s.pack)) := by
  cases step_end h with
  | hardwareReset hh =>
    have hc := State.nextCommand?_eq_none (s := s) fun w rest i e => by simp [hh] at e
    exact .inr ⟨State.nextAcceptsFrame_of_no_command hc, rfl, fun hn => by simp [State.nextClearsSession, hh] at hn⟩
  | quiet hc hk => exact .inr ⟨State.nextAcceptsFrame_of_no_command hc, hk.denoise, fun _ => hk.pack⟩
  | @command w rest i u hh hd he =>
    have hc := State.nextCommand?_eq_some_iff.2 ⟨w, rest, hh, hd⟩
    have hclears (hi : (∃ fe, i = .create fe) ∨ i = .reset ∨ i = .destroy) {p : Prop}
        (hn : s.nextClearsSession = false) : p :=
      absurd ((State.nextClearsSession_of_command hc hi).symm.trans hn) nofun
    cases he with
    | noSession hv => exact .inr ⟨State.nextAcceptsFrame_of_no_session hv, rfl, fun _ => rfl⟩
    | emptyFrame _ => exact .inr ⟨by simp [State.nextAcceptsFrame_pframe hc], rfl, fun _ => rfl⟩
    | overlongPush _ _ => exact .inr ⟨State.nextAcceptsFrame_of_not_pframe hc nofun, rfl, fun _ => rfl⟩
    | createFailed _ =>
      exact .inr ⟨State.nextAcceptsFrame_of_not_pframe hc nofun, by simp [State.countAlloc_eq], hclears (.inl ⟨_, rfl⟩)⟩
    | created =>
      exact .inr ⟨State.nextAcceptsFrame_of_not_pframe hc nofun, by simp [State.countAlloc_eq], hclears (.inl ⟨_, rfl⟩)⟩
    | destroyed => exact .inr ⟨State.nextAcceptsFrame_of_not_pframe hc nofun, rfl, hclears (.inr (.inr rfl))⟩
    | sessionReset _ => exact .inr ⟨State.nextAcceptsFrame_of_not_pframe hc nofun, rfl, hclears (.inr (.inl rfl))⟩
    | frame hv hn _ =>
      have hv : s.valid = true := hv
      exact .inl ⟨by simp [State.nextAcceptsFrame_pframe hc, hv, hn], w, rest, _, rfl⟩
    | push _ _ _ => exact .inr ⟨State.nextAcceptsFrame_of_not_pframe hc nofun, rfl, fun _ => rfl⟩

/-- An accepted frame counts a call where the session has the denoiser. -/
theorem State.runFrame_denoise (s : State) (x : Vector F32 480) :
    (s.runFrame x).draws.denoise = s.draws.denoise + if s.fe then 1 else 0 := by
  rw [State.runFrame_eq]
  cases s.fe <;> rfl

/-- Settles O40: a step that accepts a frame runs it, and every other one calls no denoiser. -/
theorem denoiserIsCalledOncePerFrame : Obligations.DenoiserIsCalledOncePerFrame := by
  intro s t h
  rcases step_frame_or_keeps h with ⟨ha, w, rest, xs, rfl⟩ | ⟨ha, hdenoise, _⟩
  · rw [ha, Bool.true_and]
    exact State.runFrame_denoise _ _
  · simp [ha, hdenoise]

/-! ### The chunk cadence (R183) -/

/-- A step that clears no session moves `filled` on by an accepted frame's 80 outputs, and by nothing else. -/
theorem step_filled {s t : State} (h : step s = .next t) (hclear : s.nextClearsSession = false) :
    t.pack.filled.val = if s.nextAcceptsFrame then
      if 160 ≤ s.pack.filled.val + 80 then 0 else s.pack.filled.val + 80
    else s.pack.filled.val := by
  rcases step_frame_or_keeps h with ⟨ha, w, rest, xs, rfl⟩ | ⟨ha, _, hpack⟩
  · rw [ha]
    exact State.runFrame_filled _ _
  · simp [ha, hpack hclear]

/-- An accepted frame sets `ready` exactly when its outputs complete a chunk. -/
theorem step_ready_of_accepted {s t : State} (h : step s = .next t) (ha : s.nextAcceptsFrame = true) :
    t.res.ready = true ↔ 160 ≤ s.pack.filled.val + 80 := by
  rcases step_frame_or_keeps h with ⟨_, w, rest, xs, rfl⟩ | ⟨hna, _⟩
  · rw [State.endCommand_res, State.runFrame_res rfl]
    exact decide_eq_true_iff
  · exact absurd (ha.symm.trans hna) nofun

/-- A run of `k + 1` steps is a step and a run of `k` steps. -/
theorem runSteps_succ {k : Nat} {s t : State} (h : runSteps (k + 1) s = .next t) :
    ∃ u, step s = .next u ∧ runSteps k u = .next t := by
  unfold runSteps at h
  split at h
  next u hu => exact ⟨u, hu, h⟩
  next => cases h
  next => cases h

/-- Frames accepted by a step and by the run after it. -/
theorem framesAccepted_succ {k : Nat} {s u : State} (h : step s = .next u) :
    framesAccepted (k + 1) s = (if s.nextAcceptsFrame then 1 else 0) + framesAccepted k u := by
  simp only [framesAccepted, h]

/-- Frames accepted by one step, whatever it ends in. -/
theorem framesAccepted_one (s : State) : framesAccepted 1 s = if s.nextAcceptsFrame then 1 else 0 := by
  simp only [framesAccepted]
  cases step s <;> rfl

/-- Frames accepted by a run and by the step after it. -/
theorem framesAccepted_succ_last {k : Nat} {s t : State} (h : runSteps k s = .next t) :
    framesAccepted (k + 1) s = framesAccepted k s + if t.nextAcceptsFrame then 1 else 0 := by
  induction k generalizing s with
  | zero =>
    obtain rfl := Host.Outcome.next.inj h
    rw [framesAccepted_one, framesAccepted, Nat.zero_add]
  | succ k ih =>
    obtain ⟨u, hu, hrun⟩ := runSteps_succ h
    rw [framesAccepted_succ hu, framesAccepted_succ hu, ih hrun, Nat.add_assoc]

/-- From an accumulator that is empty or half full, a run that clears no session leaves it half full exactly when
the frames before it and in it are odd in number. -/
theorem runSteps_filled {k p : Nat} {s t : State} (hp : s.pack.filled.val = 80 * (p % 2))
    (hclear : clearsWithin k s = false) (h : runSteps k s = .next t) :
    t.pack.filled.val = 80 * ((p + framesAccepted k s) % 2) := by
  induction k generalizing s p with
  | zero =>
    obtain rfl := Host.Outcome.next.inj h
    exact hp
  | succ k ih =>
    obtain ⟨u, hu, hrun⟩ := runSteps_succ h
    simp only [clearsWithin, hu, Bool.or_eq_false_iff] at hclear
    obtain ⟨hnext, hrest⟩ := hclear
    have hfilled := step_filled hu hnext
    have hu' : u.pack.filled.val = 80 * ((p + if s.nextAcceptsFrame then 1 else 0) % 2) := by
      rw [hfilled, hp]
      split_ifs <;> omega
    rw [framesAccepted_succ hu, ← Nat.add_assoc]
    exact ih hu' hrest hrun

/-- Settles O41: the parity of `filled` along the run, and `ready` by where the last frame finds it. -/
theorem chunkCadence : Obligations.ChunkCadence := by
  intro k s t h0 hclear h
  have hfilled := runSteps_filled (p := 0) (by simpa using h0) hclear h
  rw [Nat.zero_add] at hfilled
  refine ⟨hfilled, fun ha u hu => ?_⟩
  rw [step_ready_of_accepted hu ha, framesAccepted_succ_last h, if_pos ha, hfilled]
  omega

/-! ### The lifetime of an output (R276) -/

/-- A DPUSH stores nothing below `decout`. -/
theorem State.byte?_push_of_lt (s : State) (xs : List F32) {a : Nat} (h : a < 0x1800) :
    ((s.withDecRun (s.decRun xs)).storeDecOut (s.decRun xs).out).succeed.mem.byte? a = s.mem.byte? a :=
  Memory.byte?_storeWords_of_outside s.mem (decOutOffset 0) a _ (.inl h)

/-- A command that changes a byte of `chunkbuf` is an accepted frame that delivers its chunk. -/
theorem CommandEnd.of_chunkBuf_ne {i : Instr} {s t : State} (he : CommandEnd s i t) {r : Half}
    (hres : s.res = ⟨r, false, false, false, false⟩) {a : Nat} (ha : 0x0800 ≤ a ∧ a < 0x0940)
    (hne : t.mem.byte? a ≠ s.mem.byte? a) :
    t.res.ready = true ∧ t.res.cskip = false ∧ ∃ n, i = .pframe n ∧ n ≠ 0 ∧ s.valid = true := by
  rcases he.stores with ⟨hmem, _⟩ | ⟨n, xs, rfl, hn, hv, rfl⟩ | ⟨n, xs, rfl, rfl⟩
  · exact absurd (by rw [hmem]) hne
  · rw [State.runFrame_mem] at hne
    have hemit : 160 ≤ s.pack.filled.val + 80 ∧ 160 ≤ s.ccap.toNat := by
      by_contra h
      exact hne (s.byte?_storeFrame_of_outside _ _ (fun _ => by omega) (fun h' => absurd h' h))
    rw [State.runFrame_res hres]
    exact ⟨decide_eq_true hemit.1, by simp [hemit.2], n, rfl, hn, hv⟩
  · exact absurd (s.byte?_push_of_lt xs (by omega)) hne

/-- A command that changes a byte of `denbuf` is an accepted frame that delivers its denoised samples. -/
theorem CommandEnd.of_denBuf_ne {i : Instr} {s t : State} (he : CommandEnd s i t) {r : Half}
    (hres : s.res = ⟨r, false, false, false, false⟩) {a : Nat} (ha : 0x0C00 ≤ a ∧ a < 0x0FC0)
    (hne : t.mem.byte? a ≠ s.mem.byte? a) : t.res.dwr = true ∧ ∃ n, i = .pframe n ∧ n ≠ 0 ∧ s.valid = true := by
  rcases he.stores with ⟨hmem, _⟩ | ⟨n, xs, rfl, hn, hv, rfl⟩ | ⟨n, xs, rfl, rfl⟩
  · exact absurd (by rw [hmem]) hne
  · rw [State.runFrame_mem] at hne
    have hdeliver : s.fe = true ∧ 480 ≤ s.dcap.toNat := by
      by_contra h
      exact hne (s.byte?_storeFrame_of_outside _ _ (fun h' => absurd h' h) (fun _ => by omega))
    rw [State.runFrame_res hres]
    exact ⟨by simp [hdeliver], n, rfl, hn, hv⟩
  · exact absurd (s.byte?_push_of_lt xs (by omega)) hne

/-- A command that changes `dcount` or a byte from `decout` on is an accepted DPUSH. -/
theorem CommandEnd.of_decOut_ne {i : Instr} {s t : State} (he : CommandEnd s i t)
    (hne : (∃ a, 0x1800 ≤ a ∧ t.mem.byte? a ≠ s.mem.byte? a) ∨ t.dcount ≠ s.dcount) :
    t.res.result = 0x0000#16 ∧ ∃ n, i = .dpush n := by
  rcases he.stores with ⟨hmem, hdcount⟩ | ⟨n, xs, rfl, _, _, rfl⟩ | ⟨n, xs, rfl, rfl⟩
  · rcases hne with ⟨a, _, hne⟩ | hne
    · exact absurd (by rw [hmem]) hne
    · exact absurd hdcount hne
  · rcases hne with ⟨a, ha, hne⟩ | hne
    · rw [State.runFrame_mem] at hne
      exact absurd (s.byte?_storeFrame_of_outside _ _ (fun _ => by omega) (fun _ => by omega)) hne
    · obtain ⟨_, _, _, _, _, _, hdcount, _⟩ := s.runFrame_fields (assembleFrame xs)
      exact absurd hdcount hne
  · exact ⟨rfl, n, rfl⟩

/-- An i16 element that changes has a byte that changes. -/
theorem Memory.exists_byte?_ne_of_half?_ne {m m' : Memory} {a : Nat} (h : m'.half? a ≠ m.half? a) :
    ∃ k < 2, m'.byte? (a + k) ≠ m.byte? (a + k) := by
  by_contra hall
  push Not at hall
  exact h (Memory.half?_congr (hall 0 (by decide)) (hall 1 (by decide)))

/-- A 32-bit element that changes has a byte that changes. -/
theorem Memory.exists_byte?_ne_of_word?_ne {m m' : Memory} {a : Nat} (h : m'.word? a ≠ m.word? a) :
    ∃ k < 4, m'.byte? (a + k) ≠ m.byte? (a + k) := by
  by_contra hall
  push Not at hall
  exact h (Memory.word?_congr hall)

/-- Settles O57: a quiet step changes no output, and a command only what it delivers. -/
theorem outputsStayUntilDeliveredAfresh : Obligations.OutputsStayUntilDeliveredAfresh := by
  intro s t h hreset
  cases step_end h with
  | hardwareReset hh => exact absurd hh (hreset _)
  | quiet _ hk =>
    refine ⟨?_, ?_, ?_⟩
    · rintro ⟨i, hi, hne⟩
      obtain ⟨k, hk2, hne⟩ := Memory.exists_byte?_ne_of_half?_ne hne
      exact absurd (hk.bytes _ (by omega) (by omega)) hne
    · rintro ⟨i, hi, hne⟩
      obtain ⟨k, hk2, hne⟩ := Memory.exists_byte?_ne_of_half?_ne hne
      exact absurd (hk.bytes _ (by omega) (by omega)) hne
    · rintro (⟨i, hi, hne⟩ | hne)
      · obtain ⟨k, hk4, hne⟩ := Memory.exists_byte?_ne_of_word?_ne hne
        exact absurd (hk.bytes _ (by omega) (by omega)) hne
      · exact absurd hk.dcount hne
  | @command w rest i u hh hd he =>
    have hc := State.nextCommand?_eq_some_iff.2 ⟨w, rest, hh, hd⟩
    have haccept : (∃ n, i = .pframe n ∧ n ≠ 0 ∧ s.valid = true) → s.nextAcceptsFrame = true := by
      rintro ⟨n, rfl, hn, hv⟩
      simp [State.nextAcceptsFrame_pframe hc, hn, hv]
    refine ⟨?_, ?_, fun hne => ?_⟩
    · rintro ⟨i, hi, hne⟩
      obtain ⟨k, hk2, hne⟩ := Memory.exists_byte?_ne_of_half?_ne hne
      obtain ⟨hready, hcskip, hframe⟩ := he.of_chunkBuf_ne rfl (a := 0x0800 + 2 * i + k) (by omega) hne
      exact ⟨hready, hcskip, haccept hframe⟩
    · rintro ⟨i, hi, hne⟩
      obtain ⟨k, hk2, hne⟩ := Memory.exists_byte?_ne_of_half?_ne hne
      obtain ⟨hdwr, hframe⟩ := he.of_denBuf_ne rfl (a := 0x0C00 + 2 * i + k) (by omega) hne
      exact ⟨hdwr, haccept hframe⟩
    · obtain ⟨hresult, n, rfl⟩ := he.of_decOut_ne (hne.imp_left fun ⟨i, _, hne⟩ => by
        obtain ⟨k, _, hne⟩ := Memory.exists_byte?_ne_of_word?_ne hne
        exact ⟨_, by omega, hne⟩)
      exact ⟨hresult, n, hc⟩

end Sys2Proof.Machine

/-! PROOFS. What a command depends on (42_session.md R215, 40_decimator.md R140): the proofs that RESET leaves a fresh
session, and that two states alike in all a command reads run it alike. -/

namespace Sys2Proof.Machine

/-- Settles O12: both commands clear the Decimator and the Packer, and succeed in a session with that FE. -/
theorem resetLeavesAFreshSession : Obligations.ResetLeavesAFreshSession := by
  intro s f t u hv _ hstrap ht hu
  obtain rfl := Host.Outcome.next.inj (ht.symm.trans (exec_reset_of_session hv))
  obtain rfl := Host.Outcome.next.inj (hu.symm.trans (exec_create s.fe f))
  have hdraw : f.allocDrawFails s.fe = false := by simp [State.allocDrawFails, hstrap]
  simp [hdraw, hv, codeOk]

/-! ### The same state but for what no command reads -/

/-- The state `s` with what no command reads taken from `z`: `busy`, `dcount`, `cmdreg`, the host's actions and what it
has read. Memory is `m`. -/
def State.withUnread (s z : State) (m : Memory) : State :=
  { s with busy := z.busy, dcount := z.dcount, cmdreg := z.cmdreg, mem := m, host := z.host, rdata := z.rdata }

/-- States that agree on all that commands read, but for the buffers, differ in what no command reads. -/
theorem State.eq_withUnread {s s' : State} (hvalid : s'.valid = s.valid) (hfe : s'.fe = s.fe) (hdec : s'.dec = s.dec)
    (hpack : s'.pack = s.pack) (hcoef : s'.coef = s.coef) (hccap : s'.ccap = s.ccap) (hdcap : s'.dcap = s.dcap)
    (hdraws : s'.draws = s.draws) (hstrap : s'.allocCanFail = s.allocCanFail) (hres : s'.res = s.res) :
    s' = s.withUnread s' s'.mem := by
  rw [State.withUnread, ← hvalid, ← hfe, ← hdec, ← hpack, ← hcoef, ← hccap, ← hdcap, ← hdraws, ← hstrap, ← hres]

/-- An accepted frame makes the same stores over another memory, and all else it does is the same. -/
theorem State.runFrame_withUnread (s z : State) (m : Memory) (x : Vector F32 480) :
    (s.withUnread z m).runFrame x = (s.runFrame x).withUnread z (s.storeFrame x m) := by
  simp only [State.runFrame_eq, State.storeFrame, State.denoiseStage_fst]
  rfl

/-! ### Two memories -/

/-- Two memories hold the same entries of `inbuf` and of `decin`. -/
structure Memory.SameInputs (m m' : Memory) : Prop where
  inBuf : ∀ k < 480, m'.half? (inBufOffset k) = m.half? (inBufOffset k)
  decIn : ∀ k < 480, m'.word? (decInOffset k) = m.word? (decInOffset k)

/-- A memory whose input bytes are another's holds the other's entries. -/
theorem Memory.SameInputs.of_bytes {m m' : Memory}
    (h : ∀ a, a < 0x0800 ∨ (0x1000 ≤ a ∧ a < 0x1800) → m'.byte? a = m.byte? a) : m.SameInputs m' where
  inBuf k hk := Memory.half?_congr (h _ (by simp only [inBufOffset, inBufBase]; omega))
    (h _ (by simp only [inBufOffset, inBufBase]; omega))
  decIn k hk := Memory.word?_congr fun j hj => h _ (by simp only [decInOffset, decInBase]; omega)

theorem Memory.SameInputs.symm {m m' : Memory} (h : m.SameInputs m') : m'.SameInputs m where
  inBuf k hk := (h.inBuf k hk).symm
  decIn k hk := (h.decIn k hk).symm

theorem Memory.SameInputs.trans {m m' m'' : Memory} (h : m.SameInputs m') (h' : m'.SameInputs m'') :
    m.SameInputs m'' where
  inBuf k hk := (h'.inBuf k hk).trans (h.inBuf k hk)
  decIn k hk := (h'.decIn k hk).trans (h.decIn k hk)

/-- Stores that leave the inputs leave two memories with the same inputs. -/
theorem Memory.SameInputs.stores {m m' n n' : Memory} (h : m.SameInputs m') (hn : m.SameInputs n)
    (hn' : m'.SameInputs n') : n.SameInputs n' := hn.symm.trans (h.trans hn')

/-- From memories `m` and `m'`, each byte of `n` and `n'` is left alone in both or ends the same in both. -/
def Memory.StoredAlike (m m' n n' : Memory) : Prop :=
  ∀ a, (n.byte? a = m.byte? a ∧ n'.byte? a = m'.byte? a) ∨ n'.byte? a = n.byte? a

theorem Memory.StoredAlike.refl (m m' : Memory) : Memory.StoredAlike m m' m m' := fun _ => .inl ⟨rfl, rfl⟩

/-- The same store into both. -/
theorem Memory.StoredAlike.storeBytes {m m' n n' : Memory} (h : Memory.StoredAlike m m' n n') (b : Nat)
    (vs : List Byte) : Memory.StoredAlike m m' (n.storeBytes b vs) (n'.storeBytes b vs) := by
  intro a
  simp only [Memory.byte?_storeBytes]
  by_cases hin : b ≤ a ∧ a < b + vs.length
  · exact .inr (by rw [if_pos hin, if_pos hin])
  · rw [if_neg hin, if_neg hin]
    exact h a

/-- The same frame's stores into both. -/
theorem State.storedAlike_storeFrame (s : State) (x : Vector F32 480) (m m' : Memory) :
    Memory.StoredAlike m m' (s.storeFrame x m) (s.storeFrame x m') := by
  unfold State.storeFrame
  dsimp only
  split_ifs
  · exact ((Memory.StoredAlike.refl m m').storeBytes _ _).storeBytes _ _
  · exact (Memory.StoredAlike.refl m m').storeBytes _ _
  · exact (Memory.StoredAlike.refl m m').storeBytes _ _
  · exact Memory.StoredAlike.refl m m'

/-- A frame stores into no input. -/
theorem State.sameInputs_storeFrame (s : State) (x : Vector F32 480) (m : Memory) :
    m.SameInputs (s.storeFrame x m) :=
  .of_bytes fun _ _ => s.byte?_storeFrame_of_outside x m (fun _ => by omega) (fun _ => by omega)

/-- A DPUSH stores into no input. -/
theorem Memory.sameInputs_storeDecOut (m : Memory) (out : List F32) :
    m.SameInputs (m.storeWords (decOutOffset 0) out) :=
  .of_bytes fun a ha => Memory.byte?_storeWords_of_outside m (decOutOffset 0) a out
    (.inl (by simp only [decOutOffset, decOutBase]; omega))

/-! ### Two runs of a command -/

/-- A frame gathers the same values from the same inputs. -/
theorem State.frameInput_congr {s s' : State} (h : s.mem.SameInputs s'.mem) (n : Nat) :
    s'.frameInput n = s.frameInput n :=
  congrArg gather (List.map_congr_left fun _ hk =>
    h.inBuf _ ((List.mem_range.1 hk).trans_le (Nat.min_le_right n 480)))

/-- A DPUSH gathers the same values from the same inputs. -/
theorem State.decinInput_congr {s s' : State} (h : s.mem.SameInputs s'.mem) {n : Nat} (hn : n ≤ 480) :
    s'.decinInput n = s.decinInput n :=
  congrArg gather (List.map_congr_left fun _ hk => h.decIn _ ((List.mem_range.1 hk).trans_le hn))

/-- What the two runs leave: the same but for what no command reads, with the outputs stored alike. -/
def State.EndsAlike (s s' t t' : State) : Prop :=
  (∃ z m, t' = t.withUnread z m) ∧ t.mem.SameInputs t'.mem ∧
  ((t.dcount = s.dcount ∧ t'.dcount = s'.dcount) ∨ t'.dcount = t.dcount) ∧
  Memory.StoredAlike s.mem s'.mem t.mem t'.mem

/-- A command that stores nothing ends alike. -/
theorem State.EndsAlike.of_mem_eq {s z t : State} {m : Memory} (h : s.mem.SameInputs m)
    (hmem : t.mem = s.mem) (hdcount : t.dcount = s.dcount) :
    State.EndsAlike s (s.withUnread z m) t (t.withUnread z m) :=
  ⟨⟨z, m, rfl⟩, hmem ▸ h, .inl ⟨hdcount, rfl⟩, fun _ => .inl ⟨by rw [hmem], rfl⟩⟩

/-- From states with the same inputs, a command faults in both or ends alike in both. -/
theorem exec_withUnread (i : Instr) (s z : State) {m : Memory} (h : s.mem.SameInputs m) :
    (∃ f, exec i s = .fault f ∧ exec i (s.withUnread z m) = .fault f) ∨
    ∃ t t', exec i s = .next t ∧ exec i (s.withUnread z m) = .next t' ∧
      State.EndsAlike s (s.withUnread z m) t t' := by
  cases i with
  | create fe =>
    refine .inr ⟨_, _, exec_create fe s, exec_create fe _, ?_⟩
    simp only [State.countAlloc_eq]
    exact .of_mem_eq h rfl rfl
  | destroy => exact .inr ⟨_, _, exec_destroy s, exec_destroy _, .of_mem_eq h rfl rfl⟩
  | reset =>
    cases hv : s.valid with
    | false => exact .inr ⟨_, _, exec_reset_of_no_session hv, exec_reset_of_no_session hv, .of_mem_eq h rfl rfl⟩
    | true => exact .inr ⟨_, _, exec_reset_of_session hv, exec_reset_of_session hv, .of_mem_eq h rfl rfl⟩
  | pframe n =>
    cases hv : s.valid with
    | false => exact .inr ⟨_, _, exec_pframe_of_no_session n hv, exec_pframe_of_no_session n hv, .of_mem_eq h rfl rfl⟩
    | true =>
      obtain rfl | hn := eq_or_ne n 0
      · exact .inr ⟨_, _, exec_pframe_zero hv, exec_pframe_zero hv, .of_mem_eq h rfl rfl⟩
      have hinput : (s.withUnread z m).frameInput n = s.frameInput n := State.frameInput_congr h n
      cases hx : s.frameInput n with
      | none => exact .inl ⟨_, exec_pframe_of_unwritten hv hn hx, exec_pframe_of_unwritten hv hn (hinput.trans hx)⟩
      | some xs =>
        refine .inr ⟨_, _, exec_pframe_of_written hv hn hx, exec_pframe_of_written hv hn (hinput.trans hx), ?_⟩
        obtain ⟨_, _, _, _, _, _, hdcount, _⟩ := s.runFrame_fields (assembleFrame xs)
        rw [State.runFrame_withUnread]
        refine ⟨⟨z, _, rfl⟩, ?_, .inl ⟨hdcount, rfl⟩, ?_⟩ <;> rw [State.runFrame_mem]
        · exact h.stores (s.sameInputs_storeFrame _ _) (s.sameInputs_storeFrame _ m)
        · exact s.storedAlike_storeFrame _ _ _
  | dpush n =>
    cases hv : s.valid with
    | false => exact .inr ⟨_, _, exec_dpush_of_no_session n hv, exec_dpush_of_no_session n hv, .of_mem_eq h rfl rfl⟩
    | true =>
      by_cases hn : 480 < n
      · exact .inr ⟨_, _, exec_dpush_of_overlong hv hn, exec_dpush_of_overlong hv hn, .of_mem_eq h rfl rfl⟩
      have hn : n ≤ 480 := by omega
      have hinput : (s.withUnread z m).decinInput n = s.decinInput n := State.decinInput_congr h hn
      cases hx : s.decinInput n with
      | none => exact .inl ⟨_, exec_dpush_of_unwritten hv hn hx, exec_dpush_of_unwritten hv hn (hinput.trans hx)⟩
      | some xs =>
        refine .inr ⟨_, _, exec_dpush_of_written hv hn hx, exec_dpush_of_written hv hn (hinput.trans hx),
          ⟨{ z with dcount := _ }, _, rfl⟩, ?_, .inr rfl, ?_⟩
        · exact h.stores (Memory.sameInputs_storeDecOut _ _) (Memory.sameInputs_storeDecOut m _)
        · exact (Memory.StoredAlike.refl s.mem m).storeBytes _ _

/-- Settles O13: the second state is the first but for what no command reads, so the two runs end alike. -/
theorem commandsDependOnSessionStateOnly : Obligations.CommandsDependOnSessionStateOnly := by
  intro i s s' hvalid hfe hdec hpack hcoef hccap hdcap hdraws hstrap hres hin hdecin
  have hsame : s.mem.SameInputs s'.mem := ⟨hin, hdecin⟩
  have hs' := State.eq_withUnread hvalid hfe hdec hpack hcoef hccap hdcap hdraws hstrap hres
  rcases exec_withUnread i s s' hsame with ⟨f, e, e'⟩ | ⟨t, t', e, e', halike⟩ <;> rw [← hs'] at e'
  · exact ⟨fun f' hf => e'.trans (e.symm.trans hf), fun t ht => absurd (e.symm.trans ht) nofun⟩
  · rw [← hs'] at halike
    obtain ⟨⟨z, m, rfl⟩, hinputs, hdcount, hbytes⟩ := halike
    refine ⟨fun f hf => absurd (e.symm.trans hf) nofun, fun u hu => ?_⟩
    obtain rfl := Host.Outcome.next.inj (e.symm.trans hu)
    exact ⟨_, e', rfl, rfl, rfl, rfl, rfl, rfl, rfl, rfl, rfl, rfl, hinputs.inBuf, hinputs.decIn, hdcount, hbytes⟩

end Sys2Proof.Machine

/-! PROOFS. binary32 arithmetic (00_scope.md R13, 40_decimator.md R134): one rounding to nearest, ties to even, with the
overflow threshold, and the proofs for `fadd` and `fmul` of finite values; then NaNs, infinities and signed zeros. -/

namespace Sys2Proof.Machine

/-! ### Division rounded to nearest, ties to even -/

/-- The two outcomes of the rounding: down to the quotient, or up to the next integer. -/
theorem roundNearestEven_cases (n q : Nat) : ∃ a r, n = a * 2 ^ q + r ∧ r < 2 ^ q ∧
    ((roundNearestEven n q = a ∧ (2 * r < 2 ^ q ∨ (2 * r = 2 ^ q ∧ a % 2 = 0))) ∨
     (roundNearestEven n q = a + 1 ∧ (2 ^ q < 2 * r ∨ (2 * r = 2 ^ q ∧ a % 2 = 1)))) := by
  refine ⟨n / 2 ^ q, n % 2 ^ q, (Nat.div_add_mod' n (2 ^ q)).symm, Nat.mod_lt _ (Nat.two_pow_pos q), ?_⟩
  unfold roundNearestEven
  dsimp only
  split_ifs with h
  · exact .inr ⟨rfl, h⟩
  · exact .inl ⟨rfl, by omega⟩

/-- The rounding is at least as near as every integer, and even when another one is as near. -/
theorem roundNearestEven_nearest (n q : Nat) (k : Int) :
    ((roundNearestEven n q : Int) * 2 ^ q - n).natAbs ≤ (k * 2 ^ q - n).natAbs ∧
    (((roundNearestEven n q : Int) * 2 ^ q - n).natAbs = (k * 2 ^ q - n).natAbs → k ≠ roundNearestEven n q →
      roundNearestEven n q % 2 = 0) := by
  obtain ⟨a, r, hn, hr, h⟩ := roundNearestEven_cases n q
  have hn : (n : Int) = a * 2 ^ q + r := by exact_mod_cast hn
  have hr : (r : Int) < 2 ^ q := by exact_mod_cast hr
  have hk : k * 2 ^ q - n = (k - a) * 2 ^ q - r := by rw [hn]; ring
  have hdist : (k ≤ a - 1 ∧ (k - a) * 2 ^ q ≤ -2 ^ q) ∨ (k = a ∧ (k - a) * 2 ^ q = 0) ∨
      (k = a + 1 ∧ (k - a) * 2 ^ q = 2 ^ q) ∨ (a + 2 ≤ k ∧ 2 * 2 ^ q ≤ (k - a) * 2 ^ q) := by
    have hp : (0 : Int) < 2 ^ q := by positivity
    rcases (by omega : k ≤ a - 1 ∨ k = a ∨ k = a + 1 ∨ a + 2 ≤ k) with h | rfl | rfl | h
    · exact .inl ⟨h, by nlinarith⟩
    · exact .inr (.inl ⟨rfl, by ring⟩)
    · exact .inr (.inr (.inl ⟨rfl, by ring⟩))
    · exact .inr (.inr (.inr ⟨h, by nlinarith⟩))
  rw [hk]
  rcases h with ⟨hm, hh⟩ | ⟨hm, hh⟩
  · have hmn : (roundNearestEven n q : Int) * 2 ^ q - n = -r := by rw [hm, hn]; ring
    have hh : (2 * r : Int) < 2 ^ q ∨ ((2 * r : Int) = 2 ^ q ∧ a % 2 = 0) := by exact_mod_cast hh
    rw [hmn, hm]
    omega
  · have hmn : (roundNearestEven n q : Int) * 2 ^ q - n = 2 ^ q - r := by rw [hm, hn]; push_cast; ring
    have hh : (2 ^ q : Int) < 2 * r ∨ ((2 * r : Int) = 2 ^ q ∧ a % 2 = 1) := by exact_mod_cast hh
    rw [hmn, hm]
    push_cast
    omega

/-- A multiple of `2^q` that is not above the value is not above its rounding. -/
theorem le_roundNearestEven {b n q : Nat} (h : b * 2 ^ q ≤ n) : b ≤ roundNearestEven n q := by
  have hb : b ≤ n / 2 ^ q := (Nat.le_div_iff_mul_le (Nat.two_pow_pos q)).2 h
  unfold roundNearestEven
  dsimp only
  split_ifs <;> omega

/-- A multiple of `2^q` that is above the value is not below its rounding. -/
theorem roundNearestEven_le {b n q : Nat} (h : n < b * 2 ^ q) : roundNearestEven n q ≤ b := by
  have hb : n / 2 ^ q < b := (Nat.div_lt_iff_lt_mul (Nat.two_pow_pos q)).2 h
  unfold roundNearestEven
  dsimp only
  split_ifs <;> omega

/-- Above an odd integer the rounding goes up from the half on. -/
theorem succ_le_roundNearestEven_iff {b n q : Nat} (hb : b % 2 = 1) :
    b + 1 ≤ roundNearestEven n q ↔ (2 * b + 1) * 2 ^ q ≤ 2 * n := by
  obtain ⟨a, r, hn, hr, h⟩ := roundNearestEven_cases n q
  have hexp : (2 * b + 1) * 2 ^ q = 2 * (b * 2 ^ q) + 2 ^ q := by ring
  rcases (by omega : a < b ∨ a = b ∨ b < a) with hab | rfl | hab
  · have : (a + 1) * 2 ^ q ≤ b * 2 ^ q := Nat.mul_le_mul_right _ hab
    have : (a + 1) * 2 ^ q = a * 2 ^ q + 2 ^ q := by ring
    omega
  · omega
  · have : (b + 1) * 2 ^ q ≤ a * 2 ^ q := Nat.mul_le_mul_right _ hab
    have : (b + 1) * 2 ^ q = b * 2 ^ q + 2 ^ q := by ring
    omega

/-! ### The rounding to 24 bits -/

/-- The unit that a value is rounded to: its 24 leading bits, or what a subnormal has. -/
def roundExponent (n s : Nat) : Nat := max s (Nat.log2 n - 23)

theorem le_roundExponent (n s : Nat) : s ≤ roundExponent n s := Nat.le_max_left _ _

theorem roundLow_eq (n s : Nat) : roundLow n s =
    min ((roundExponent n s - s) * 2 ^ 23 + roundNearestEven n (roundExponent n s)) 0x7F800000 := rfl

/-- The value has at most 24 bits above the unit. -/
theorem lt_two_pow_roundExponent (n s : Nat) : n < 2 ^ (roundExponent n s + 24) :=
  Nat.lt_log2_self.trans_le (Nat.pow_le_pow_right Nat.two_pos (by unfold roundExponent; omega))

/-- Above the smallest unit the value has exactly 24 bits. -/
theorem two_pow_roundExponent_le {n s : Nat} (h : s < roundExponent n s) : 2 ^ (roundExponent n s + 23) ≤ n := by
  have hlog : roundExponent n s + 23 = Nat.log2 n := by unfold roundExponent at *; omega
  have hn : n ≠ 0 := by
    rintro rfl
    simp [Nat.log2_zero] at hlog
  rw [hlog]
  exact Nat.log2_self_le hn

/-- The rounded significand has at most 24 bits, or is 2^24. -/
theorem roundedSignificand_le (n s : Nat) : roundNearestEven n (roundExponent n s) ≤ 2 ^ 24 :=
  roundNearestEven_le ((lt_two_pow_roundExponent n s).trans_eq (by rw [pow_add, Nat.mul_comm]))

/-- Above the smallest unit the rounded significand has all its 24 bits. -/
theorem le_roundedSignificand {n s : Nat} (h : s < roundExponent n s) :
    2 ^ 23 ≤ roundNearestEven n (roundExponent n s) :=
  le_roundNearestEven ((by rw [pow_add, Nat.mul_comm] : _ = _).trans_le (two_pow_roundExponent_le h))

theorem roundLow_le (n s : Nat) : roundLow n s ≤ 0x7F800000 := Nat.min_le_right _ _

/-- The rounding overflows from half an ulp beyond the largest finite value on. -/
theorem roundLow_eq_infinity_iff (n s : Nat) : roundLow n s = 0x7F800000 ↔ (2 ^ 25 - 1) * 2 ^ (252 + s) ≤ n := by
  have hle := roundedSignificand_le n s
  have hlt := lt_two_pow_roundExponent n s
  have hq := le_roundExponent n s
  rw [roundLow_eq, min_eq_right_iff]
  rcases (by omega : roundExponent n s - s ≤ 252 ∨ roundExponent n s = 253 + s ∨ 254 + s ≤ roundExponent n s)
    with h | h | h
  · have hpow : 2 ^ (roundExponent n s + 24) ≤ 2 ^ 24 * 2 ^ (252 + s) := by
      rw [← pow_add]
      exact Nat.pow_le_pow_right Nat.two_pos (by omega)
    omega
  · have hhalf := succ_le_roundNearestEven_iff (b := 2 ^ 24 - 1) (n := n) (q := roundExponent n s) (by decide)
    have hpow : 2 ^ roundExponent n s = 2 * 2 ^ (252 + s) := by rw [h, ← pow_succ']; congr 1; omega
    rw [hpow] at hhalf
    omega
  · have hpow : 2 ^ 25 * 2 ^ (252 + s) ≤ 2 ^ (roundExponent n s + 23) := by
      rw [← pow_add]
      exact Nat.pow_le_pow_right Nat.two_pos (by omega)
    have hge := two_pow_roundExponent_le (n := n) (s := s) (by omega)
    have hm := le_roundedSignificand (n := n) (s := s) (by omega)
    omega

/-! ### Values of patterns -/

/-- A magnitude with a sign. -/
def signed (negative : Bool) (n : Nat) : Int := if negative then -n else n

theorem F32.value_eq_signed (x : F32) : F32.value x = signed (F32.sign x) (F32.magnitude x) := rfl

@[simp] theorem natAbs_signed (b : Bool) (n : Nat) : (signed b n).natAbs = n := by
  cases b <;> simp [signed]

theorem signed_mul_signed (a b : Bool) (m n : Nat) : signed a m * signed b n = signed (a != b) (m * n) := by
  cases a <;> cases b <;> simp [signed]

theorem signed_mul (b : Bool) (m n : Nat) : signed b m * n = signed b (m * n) := by
  cases b <;> simp [signed]

/-- The distance of a value from a signed one is that of the value with the sign turned from the magnitude. -/
theorem natAbs_sub_signed (b : Bool) (v : Int) (n : Nat) :
    (v - signed b n).natAbs = ((if b then -v else v) - n).natAbs := by
  cases b
  · simp [signed]
  · simp only [signed, if_true]
    omega

/-- Turning the sign of two values alike tells them apart. -/
theorem turn_injective (b : Bool) {v w : Int} (h : (if b then -v else v) = if b then -w else w) : v = w := by
  cases b
  · exact h
  · exact neg_injective h

/-- A finite value is an integer of at most 24 bits in units of a power of 2. -/
theorem F32.exists_value_eq (c : F32) : ∃ (k : Int) (e : Nat), k.natAbs < 2 ^ 24 ∧ F32.value c = k * 2 ^ e := by
  have hf : F32.fraction c < 2 ^ 23 := (c.extractLsb' 0 23).isLt
  refine ⟨signed (F32.sign c) (if F32.expField c = 0 then F32.fraction c else 2 ^ 23 + F32.fraction c),
    F32.expField c - 1, ?_, ?_⟩
  · rw [natAbs_signed]
    split_ifs <;> omega
  · have hmag : F32.magnitude c =
        (if F32.expField c = 0 then F32.fraction c else 2 ^ 23 + F32.fraction c) * 2 ^ (F32.expField c - 1) := by
      unfold F32.magnitude
      split_ifs with h
      · simp [h]
      · rfl
    rw [F32.value_eq_signed, hmag, ← signed_mul]
    push_cast
    rfl

/-- Low bits `q * 2^23 + m` below infinity are `m` units of `2^q`, for a subnormal, a normal and a significand that
carries into the exponent. -/
theorem F32.magnitude_ofSignBits_rounded (b : Bool) {m q : Nat} (hm : m ≤ 2 ^ 24) (hq : q = 0 ∨ 2 ^ 23 ≤ m)
    (h : q * 2 ^ 23 + m < 0x7F800000) : F32.magnitude (F32.ofSignBits b (q * 2 ^ 23 + m)) = m * 2 ^ q := by
  rcases (by omega : (q = 0 ∧ m < 2 ^ 23) ∨ (2 ^ 23 ≤ m ∧ m < 2 ^ 24) ∨ m = 2 ^ 24) with ⟨rfl, hm⟩ | ⟨hm, hm'⟩ | rfl
  · rw [F32.magnitude, F32.expField_ofSignBits b (by omega), F32.fraction_ofSignBits b (by omega), if_pos (by omega)]
    omega
  · exact F32.magnitude_ofSignBits b hm hm' (by omega)
  · rw [show q * 2 ^ 23 + 2 ^ 24 = (q + 1) * 2 ^ 23 + 2 ^ 23 by ring,
      F32.magnitude_ofSignBits b le_rfl (by decide) (by omega), pow_succ]
    ring

/-! ### The rounding is to nearest among all finite values -/

/-- Every value with at most 24 bits is at least as far as the rounded one, and the rounded significand is even when
another such value is as near. -/
theorem rounded_nearest (n s : Nat) {k : Int} (hk : k.natAbs < 2 ^ 24) (e : Nat) :
    ((roundNearestEven n (roundExponent n s) : Int) * 2 ^ roundExponent n s - n).natAbs ≤
      (k * 2 ^ (e + s) - n).natAbs ∧
    (((roundNearestEven n (roundExponent n s) : Int) * 2 ^ roundExponent n s - n).natAbs =
        (k * 2 ^ (e + s) - n).natAbs →
      k * 2 ^ (e + s) ≠ roundNearestEven n (roundExponent n s) * 2 ^ roundExponent n s →
      roundNearestEven n (roundExponent n s) % 2 = 0) := by
  by_cases hq : roundExponent n s ≤ e + s
  · have hgrid : k * 2 ^ (e + s) = k * 2 ^ (e + s - roundExponent n s) * 2 ^ roundExponent n s := by
      rw [mul_assoc, ← pow_add, Nat.sub_add_cancel hq]
    rw [hgrid]
    obtain ⟨hle, htie⟩ := roundNearestEven_nearest n (roundExponent n s) (k * 2 ^ (e + s - roundExponent n s))
    exact ⟨hle, fun heq hne => htie heq fun h => hne (by rw [h])⟩
  · have hge := two_pow_roundExponent_le (n := n) (s := s) (by omega)
    have hge : (2 ^ 23 * 2 ^ roundExponent n s : Int) ≤ n := by
      rw [← pow_add, Nat.add_comm]
      exact_mod_cast hge
    have hbelow : k * 2 ^ (e + s) < 2 ^ 23 * 2 ^ roundExponent n s := by
      calc k * 2 ^ (e + s) < 2 ^ 24 * 2 ^ (e + s) := mul_lt_mul_of_pos_right (by omega) (by positivity)
        _ = 2 ^ 23 * 2 ^ (e + s + 1) := by ring
        _ ≤ 2 ^ 23 * 2 ^ roundExponent n s := by gcongr <;> omega
    obtain ⟨hle, _⟩ := roundNearestEven_nearest n (roundExponent n s) (2 ^ 23)
    omega

/-- Below infinity the low bits are the exponent and the rounded significand. -/
theorem roundLow_of_lt {n s : Nat} (h : roundLow n s < 0x7F800000) :
    roundLow n s = (roundExponent n s - s) * 2 ^ 23 + roundNearestEven n (roundExponent n s) := by
  rw [roundLow_eq] at h ⊢
  exact min_eq_left_of_lt ((min_lt_iff.1 h).resolve_right (lt_irrefl _))

/-- Below infinity the rounding is the rounded significand in its units. -/
theorem value_ofSignBits_roundLow {n s : Nat} (b : Bool) (h : roundLow n s < 0x7F800000) :
    F32.value (F32.ofSignBits b (roundLow n s)) * 2 ^ s =
      signed b (roundNearestEven n (roundExponent n s) * 2 ^ roundExponent n s) := by
  have hq := le_roundExponent n s
  have hfull := le_roundedSignificand (n := n) (s := s)
  have hlow := roundLow_of_lt h
  rw [hlow] at h ⊢
  rw [F32.value_eq_signed, F32.sign_ofSignBits b (by omega),
    F32.magnitude_ofSignBits_rounded b (roundedSignificand_le n s) (by omega) h]
  exact_mod_cast (signed_mul b _ (2 ^ s)).trans (by rw [mul_assoc, ← pow_add, Nat.sub_add_cancel hq])

/-- The last bit of the rounding is that of its significand. -/
theorem getLsbD_zero_ofSignBits_roundLow {n s : Nat} (b : Bool) (h : roundLow n s < 0x7F800000)
    (heven : roundNearestEven n (roundExponent n s) % 2 = 0) :
    (F32.ofSignBits b (roundLow n s)).getLsbD 0 = false := by
  have hmod : (F32.ofSignBits b (roundLow n s)).toNat % 2 = 0 := by
    rw [F32.toNat_ofSignBits b (h.trans (by decide)), roundLow_of_lt h]
    split_ifs <;> omega
  simp [BitVec.getLsbD, hmod]

/-- The rounding is the nearest value of at most 24 bits, ties to even. -/
theorem ofSignBits_roundLow_nearest {n s : Nat} (b : Bool) (h : roundLow n s < 0x7F800000) (c : F32) :
    (F32.value (F32.ofSignBits b (roundLow n s)) * 2 ^ s - signed b n).natAbs ≤
      (F32.value c * 2 ^ s - signed b n).natAbs ∧
    ((F32.value (F32.ofSignBits b (roundLow n s)) * 2 ^ s - signed b n).natAbs =
        (F32.value c * 2 ^ s - signed b n).natAbs →
      F32.value c ≠ F32.value (F32.ofSignBits b (roundLow n s)) →
      (F32.ofSignBits b (roundLow n s)).getLsbD 0 = false) := by
  obtain ⟨k, e, hk, hc⟩ := F32.exists_value_eq c
  have hvalue := value_ofSignBits_roundLow b h
  have hturned : (if b then -(F32.value c * 2 ^ s) else F32.value c * 2 ^ s) = (if b then -k else k) * 2 ^ (e + s) := by
    rw [hc, pow_add]
    split_ifs <;> ring
  have hturned' : (if b then -signed b (roundNearestEven n (roundExponent n s) * 2 ^ roundExponent n s)
      else signed b (roundNearestEven n (roundExponent n s) * 2 ^ roundExponent n s)) =
        (roundNearestEven n (roundExponent n s) : Int) * 2 ^ roundExponent n s := by
    cases b <;> simp [signed]
  obtain ⟨hle, htie⟩ := rounded_nearest n s (k := if b then -k else k) (by split_ifs <;> omega) e
  rw [natAbs_sub_signed, natAbs_sub_signed, hvalue, hturned, hturned']
  refine ⟨hle, fun heq hne => getLsbD_zero_ofSignBits_roundLow b h (htie heq fun hsame => hne ?_)⟩
  rw [← hturned, ← hturned', ← hvalue] at hsame
  exact Int.eq_of_mul_eq_mul_right (by positivity : (2 ^ s : Int) ≠ 0) (turn_injective b hsame)

/-- The pattern of a rounding: no NaN, of the sign it is built with, infinite from the threshold on, and otherwise the
nearest finite value, ties to even. -/
theorem ofSignBits_roundLow_spec (b : Bool) (n s : Nat) :
    let r := F32.ofSignBits b (roundLow n s)
    F32.isNaN r = false ∧ F32.sign r = b ∧ (F32.isInf r = true ↔ (2 ^ 25 - 1) * 2 ^ (252 + s) ≤ n) ∧
    (F32.isFinite r = true → ∀ c : F32,
      (F32.value r * 2 ^ s - signed b n).natAbs ≤ (F32.value c * 2 ^ s - signed b n).natAbs ∧
      ((F32.value r * 2 ^ s - signed b n).natAbs = (F32.value c * 2 ^ s - signed b n).natAbs →
        F32.value c ≠ F32.value r → r.getLsbD 0 = false)) := by
  have hle := roundLow_le n s
  have hlow : roundLow n s < 2 ^ 31 := by omega
  refine ⟨?_, F32.sign_ofSignBits b hlow, ?_, fun hfin => ofSignBits_roundLow_nearest b ?_⟩
  · simp only [F32.isNaN, F32.expField_ofSignBits b hlow, F32.fraction_ofSignBits b hlow, Bool.and_eq_false_iff,
      beq_eq_false_iff_ne, bne_eq_false_iff_eq]
    omega
  · rw [← roundLow_eq_infinity_iff]
    simp only [F32.isInf, F32.expField_ofSignBits b hlow, F32.fraction_ofSignBits b hlow, Bool.and_eq_true, beq_iff_eq]
    omega
  · simp only [F32.isFinite, F32.expField_ofSignBits b hlow, bne_iff_ne] at hfin
    omega

/-! ### Sums and products of finite values -/

/-- A finite pattern is no NaN and no infinity. -/
theorem F32.kind_of_isFinite {x : F32} (h : F32.isFinite x = true) : F32.isNaN x = false ∧ F32.isInf x = false := by
  have hexp : (F32.expField x == 255) = false := by simpa [F32.isFinite] using h
  simp [F32.isNaN, F32.isInf, hexp]

/-- An integer is its magnitude with its sign. -/
theorem signed_natAbs (v : Int) : signed (decide (v < 0)) v.natAbs = v := by
  unfold signed
  split_ifs with h <;> simp only [decide_eq_true_eq] at h <;> omega

/-- A sum of finite values is one rounding of the exact sum, with the sum's sign, or the two operands' at 0. -/
theorem fadd_of_isFinite (nan : F32) {a b : F32} (ha : F32.isFinite a = true) (hb : F32.isFinite b = true) :
    fadd nan a b = F32.ofSignBits
      (if F32.value a + F32.value b = 0 then F32.sign a && F32.sign b else decide (F32.value a + F32.value b < 0))
      (roundLow (F32.value a + F32.value b).natAbs 0) := by
  obtain ⟨hna, hia⟩ := F32.kind_of_isFinite ha
  obtain ⟨hnb, hib⟩ := F32.kind_of_isFinite hb
  simp only [fadd, hna, hnb, hia, hib, Bool.or_self, Bool.false_eq_true, if_false]
  split_ifs with h
  · rw [h]
    rfl
  · rfl

/-- A product of finite values is one rounding of the exact product of the magnitudes, in units of `2^-298`. -/
theorem fmul_of_isFinite (nan : F32) {a b : F32} (ha : F32.isFinite a = true) (hb : F32.isFinite b = true) :
    fmul nan a b = F32.ofSignBits (F32.sign a != F32.sign b) (roundLow (F32.magnitude a * F32.magnitude b) 149) := by
  obtain ⟨hna, hia⟩ := F32.kind_of_isFinite ha
  obtain ⟨hnb, hib⟩ := F32.kind_of_isFinite hb
  simp only [fmul, hna, hnb, hia, hib, Bool.or_self, Bool.false_eq_true, if_false]

/-- Settles O21: the rounding's specification at the exact sum. -/
theorem faddRoundsToNearestEven : Obligations.FaddRoundsToNearestEven := by
  intro nan a b ha hb
  dsimp only
  rw [fadd_of_isFinite nan ha hb]
  generalize F32.value a + F32.value b = v
  generalize hsign : (if v = 0 then F32.sign a && F32.sign b else decide (v < 0)) = negative
  have hv : signed negative v.natAbs = v := by
    subst hsign
    split_ifs with h
    · subst h
      cases F32.sign a && F32.sign b <;> rfl
    · exact signed_natAbs v
  obtain ⟨hnan, hneg, hinf, hnear⟩ := ofSignBits_roundLow_spec negative v.natAbs 0
  simp only [hv, pow_zero, mul_one] at hnear
  refine ⟨hnan, hinf, fun h => ?_, fun h c _ => hnear h c⟩
  have hne : v ≠ 0 := by
    rintro rfl
    have := hinf.1 h
    simp at this
  rw [hneg, ← hsign, if_neg hne, decide_eq_true_iff]

/-- Settles O22: the rounding's specification at the exact product, whose sign is that of the pattern. -/
theorem fmulRoundsToNearestEven : Obligations.FmulRoundsToNearestEven := by
  intro nan a b ha hb
  dsimp only
  rw [fmul_of_isFinite nan ha hb, F32.value_eq_signed a, F32.value_eq_signed b, signed_mul_signed, natAbs_signed]
  obtain ⟨hnan, hneg, hinf, hnear⟩ :=
    ofSignBits_roundLow_spec (F32.sign a != F32.sign b) (F32.magnitude a * F32.magnitude b) 149
  rw [show 252 + 149 = 401 from rfl] at hinf
  exact ⟨hnan, hneg, hinf, fun h c _ => hnear h c⟩

/-! ### NaNs, infinities and signed zeros -/

/-- A pattern is built from its sign, its exponent field and its fraction. -/
theorem F32.eq_ofSignBits_fields (x : F32) :
    x = F32.ofSignBits (F32.sign x) (F32.expField x * 2 ^ 23 + F32.fraction x) := by
  have hx := x.isLt
  have hsign : F32.sign x = decide (2 ^ 31 ≤ x.toNat) := by
    rw [F32.sign, ← BitVec.msb_eq_getLsbD_last, BitVec.msb_eq_decide]
  have hexp : F32.expField x = x.toNat / 2 ^ 23 % 2 ^ 8 := by
    rw [F32.expField, BitVec.extractLsb'_toNat, Nat.shiftRight_eq_div_pow]
  have hfrac : F32.fraction x = x.toNat % 2 ^ 23 := by
    rw [F32.fraction, BitVec.extractLsb'_toNat, Nat.shiftRight_eq_div_pow, pow_zero, Nat.div_one]
  refine BitVec.eq_of_toNat_eq ?_
  rw [F32.toNat_ofSignBits _ (by omega), hsign, hexp, hfrac]
  simp only [decide_eq_true_eq]
  split_ifs <;> omega

/-- Every NaN draw is a NaN pattern, and every NaN pattern is one of the draws. -/
theorem exists_nanPattern_iff (x : F32) : (∃ d, nanPattern d = x) ↔ F32.expField x = 255 ∧ F32.fraction x ≠ 0 := by
  constructor
  · rintro ⟨d, rfl⟩
    have hlow : 0x7F800001 + d.val % 8388607 < 2 ^ 31 := by omega
    rw [nanPattern, F32.expField_ofSignBits _ hlow, F32.fraction_ofSignBits _ hlow]
    omega
  · rintro ⟨hexp, hfrac⟩
    have hlt : F32.fraction x < 2 ^ 23 := (x.extractLsb' 0 23).isLt
    refine ⟨⟨(if F32.sign x then 8388607 else 0) + (F32.fraction x - 1), by split_ifs <;> omega⟩, ?_⟩
    rw [nanPattern]
    conv_rhs => rw [F32.eq_ofSignBits_fields x, hexp]
    cases F32.sign x
    · congr 1
      · simp only [Bool.false_eq_true, if_false, decide_eq_false_iff_not]
        omega
      · simp only [Bool.false_eq_true, if_false]
        omega
    · congr 1
      · simp only [if_true, decide_eq_true_eq]
        omega
      · simp only [if_true]
        omega

/-- Infinities of one sign are one pattern. -/
theorem F32.eq_of_isInf {a b : F32} (ha : F32.isInf a = true) (hb : F32.isInf b = true)
    (hs : F32.sign b = F32.sign a) : a = b := by
  simp only [F32.isInf, Bool.and_eq_true, beq_iff_eq] at ha hb
  rw [F32.eq_ofSignBits_fields a, F32.eq_ofSignBits_fields b, ha.1, ha.2, hb.1, hb.2, hs]

/-- A pattern of magnitude 0 is a zero, of its sign. -/
theorem F32.eq_of_magnitude_eq_zero {x : F32} (h : F32.magnitude x = 0) : x = F32.ofSignBits (F32.sign x) 0 := by
  unfold F32.magnitude at h
  split_ifs at h with he
  · conv_lhs => rw [F32.eq_ofSignBits_fields x, he, h, Nat.zero_mul, Nat.zero_add]
  · simp at h

/-- The magnitude is 0 for the two zeros only. -/
theorem F32.magnitude_ne_zero {x : F32} (h : x ≠ 0x00000000#32) (h' : x ≠ 0x80000000#32) : F32.magnitude x ≠ 0 := by
  intro hm
  have hx := F32.eq_of_magnitude_eq_zero hm
  cases hs : F32.sign x <;> rw [hs] at hx
  · exact h hx
  · exact h' hx

/-- An infinity is no zero. -/
theorem F32.magnitude_ne_zero_of_isInf {x : F32} (h : F32.isInf x = true) : F32.magnitude x ≠ 0 :=
  F32.magnitude_ne_zero (fun e => by subst e; cases h) (fun e => by subst e; cases h)

/-- A NaN operand gives the drawn NaN. -/
theorem fadd_fmul_of_isNaN (nan : F32) {a b : F32} (h : F32.isNaN a = true ∨ F32.isNaN b = true) :
    fadd nan a b = nan ∧ fmul nan a b = nan := by
  have h : (F32.isNaN a || F32.isNaN b) = true := by simpa using h
  simp [fadd, fmul, h]

/-- The sum of opposite infinities gives the drawn NaN. -/
theorem fadd_opposite_infinities (nan : F32) {a b : F32} (ha : F32.isInf a = true) (hb : F32.isInf b = true)
    (hs : F32.sign a ≠ F32.sign b) : fadd nan a b = nan := by
  simp [fadd, F32.isNaN_eq_false_of_isInf ha, F32.isNaN_eq_false_of_isInf hb, ha, hb, hs]

/-- An infinity and a finite value, in either order, give that infinity. -/
theorem fadd_infinity_finite (nan : F32) {a b : F32} (ha : F32.isInf a = true) (hb : F32.isFinite b = true) :
    fadd nan a b = a ∧ fadd nan b a = a := by
  obtain ⟨hnb, hib⟩ := F32.kind_of_isFinite hb
  simp [fadd, F32.isNaN_eq_false_of_isInf ha, ha, hnb, hib]

/-- Two infinities of one sign give it. -/
theorem fadd_infinity_self (nan : F32) {a : F32} (ha : F32.isInf a = true) : fadd nan a a = a := by
  simp [fadd, F32.isNaN_eq_false_of_isInf ha, ha]

/-- An infinity times a zero, in either order, gives the drawn NaN. -/
theorem fmul_infinity_zero (nan : F32) {a b : F32} (ha : F32.isInf a = true) (hnb : F32.isNaN b = false)
    (hb : F32.magnitude b = 0) : fmul nan a b = nan ∧ fmul nan b a = nan := by
  simp [fmul, F32.isNaN_eq_false_of_isInf ha, ha, hnb, hb]

/-- An infinity times anything but a zero or a NaN, in either order, is the infinity with the product's sign. -/
theorem fmul_infinity (nan : F32) {a b : F32} (ha : F32.isInf a = true) (hnb : F32.isNaN b = false)
    (hb : F32.magnitude b ≠ 0) :
    fmul nan a b = F32.ofSignBits (F32.sign a != F32.sign b) 0x7F800000 ∧
    fmul nan b a = F32.ofSignBits (F32.sign b != F32.sign a) 0x7F800000 := by
  simp [fmul, F32.isNaN_eq_false_of_isInf ha, ha, hnb, hb, F32.magnitude_ne_zero_of_isInf ha]

/-- Finite values of exact sum 0 that are both negative are both -0.0. -/
theorem F32.eq_neg_zero_of_sum_zero {a b : F32} (h : F32.value a + F32.value b = 0) (hs : F32.sign a = true)
    (hs' : F32.sign b = true) : a = 0x80000000#32 ∧ b = 0x80000000#32 := by
  simp only [F32.value_eq_signed, hs, hs', signed, if_true] at h
  have ha := F32.eq_of_magnitude_eq_zero (x := a) (by omega)
  have hb := F32.eq_of_magnitude_eq_zero (x := b) (by omega)
  rw [hs] at ha
  rw [hs'] at hb
  exact ⟨ha, hb⟩

/-- A sum of exact value 0 is +0.0, unless both operands are -0.0. -/
theorem fadd_of_sum_zero (nan : F32) {a b : F32} (ha : F32.isFinite a = true) (hb : F32.isFinite b = true)
    (h : F32.value a + F32.value b = 0) (hne : ¬ (a = 0x80000000#32 ∧ b = 0x80000000#32)) :
    fadd nan a b = 0x00000000#32 := by
  have hsign : (F32.sign a && F32.sign b) = false := by
    rw [Bool.and_eq_false_iff]
    by_contra hboth
    push Not at hboth
    exact hne (F32.eq_neg_zero_of_sum_zero h (by simpa using hboth.1) (by simpa using hboth.2))
  rw [fadd_of_isFinite nan ha hb, h, if_pos rfl, hsign]
  rfl

/-- Settles O23: the NaN draws by their fields, and each kind of operands by its lemma. -/
theorem specialValuesFollowIeee : Obligations.SpecialValuesFollowIeee := by
  refine ⟨fun x => ?_, fun nan a b => ⟨fadd_fmul_of_isNaN nan, fadd_opposite_infinities nan, fun ha hb => ?_,
    fun ha hb => ?_, fun ha hnb hb hb' => ?_, fadd_of_sum_zero nan, rfl⟩⟩
  · rw [exists_nanPattern_iff, F32.expField, F32.fraction, ← BitVec.toNat_inj, ne_eq, ne_eq, ← BitVec.toNat_inj]
    rfl
  · rcases hb with hb | ⟨hb, hs⟩
    · exact fadd_infinity_finite nan ha hb
    · obtain rfl := F32.eq_of_isInf ha hb hs
      exact ⟨fadd_infinity_self nan ha, fadd_infinity_self nan ha⟩
  · rcases hb with rfl | rfl <;> exact fmul_infinity_zero nan ha (by decide) (by decide)
  · obtain ⟨e, e'⟩ := fmul_infinity nan ha hnb (F32.magnitude_ne_zero hb hb')
    rw [e, e', bne_comm]
    exact ⟨by cases F32.sign b != F32.sign a <;> rfl, F32.sign_ofSignBits _ (by decide), rfl⟩

end Sys2Proof.Machine
